-- ==== Sys2Proof/Word.lean ====
section
/-! DEFINITION. The machine word (spec/00_scope.md R6, R8): every register, operand and result is an unsigned 64-bit value. -/

namespace Sys2Proof

/-- A 64-bit register or operand, W = 64 (R6, R7). -/
abbrev Word := BitVec 64

/-- A byte lane of a bus access (R54). -/
abbrev Byte := BitVec 8

/-- `MAX64` = 2^64 - 1 (R8). -/
abbrev max64 : Word := 0xFFFF_FFFF_FFFF_FFFF#64

end Sys2Proof
end

