-- ==== Sys2Proof/Syntax.lean ====
section
/-! DEFINITION. The command set (spec/30_encoding.md R82): one constructor per row of spec/opcode_table.json.
A command has no immediates and no operand-form fields (R85): its operands are the whole registers of R84. -/

namespace Sys2Proof

/-- The five commands, in the order of the opcode map (R82). -/
inductive Instr where
  /-- MODADD: (OPA + OPB) mod OPM (R105). -/
  | modadd
  /-- MODMUL: (OPA * OPB) mod OPM (R126). -/
  | modmul
  /-- MODPOW: OPA ^ OPB mod OPM (R145). -/
  | modpow
  /-- GCD: gcd(OPA, OPB) (R165). -/
  | gcd
  /-- MODINV: the inverse of OPA modulo OPM (R185). -/
  | modinv
  deriving DecidableEq, Repr, Inhabited

end Sys2Proof
end

