-- ==== Sys2Proof/WellFormed.lean ====
section
/-! DEFINITION. Well-formedness. A constructor of `Instr` has no operand to check (spec/30_encoding.md R85), so every `Instr`
is well formed. What CAN be ill formed is the written command word, so the checks are on its CMD64 fields (R81, R86). -/

namespace Sys2Proof

/-- The two fields of the one command format, CMD64 (R81). -/
structure CmdFields where
  /-- Bits 3:0. -/
  opcode : BitVec 4
  /-- Bits 63:4, which must be zero. -/
  rsvd : BitVec 60
  deriving DecidableEq, Repr

/-- Bits 63:4 are zero (R81, R86). -/
def CmdFields.rsvdOk (f : CmdFields) : Bool := f.rsvd == 0

/-- The opcode is not 0x0, which is illegal so that a stray zero write starts nothing (R82, R86). -/
def CmdFields.opcodeNotZero (f : CmdFields) : Bool := f.opcode != 0

/-- The opcode is not one of the reserved 0x6 to 0xF (R82, R86). -/
def CmdFields.opcodeNotReserved (f : CmdFields) : Bool := decide (f.opcode.toNat ≤ 5)

/-- The fields are those of a legal command word: all three checks of R86 hold. -/
def CmdFields.wf (f : CmdFields) : Bool := f.rsvdOk && f.opcodeNotZero && f.opcodeNotReserved

/-- Every command is well formed: it has no operand fields (R85). -/
def Instr.wf (i : Instr) : Bool :=
  match i with
  | .modadd => true
  | .modmul => true
  | .modpow => true
  | .gcd => true
  | .modinv => true

end Sys2Proof
end

