-- ==== Sys2Proof/Decode.lean ====
section
/-! DEFINITION. Decoding a command word, total on every word and every list of bytes, and the encoder
(spec/30_encoding.md R80 to R83, R86). -/

namespace Sys2Proof

/-- Why a command word is illegal (R86). Raised by `decode`; safe: the machine reports ILLEGAL_CMD in STATUS (R202). -/
inductive IllegalWord where
  /-- A bit of 63:4 is set, whatever the opcode. -/
  | reservedBits
  /-- OPCODE 0x0. -/
  | zeroOpcode
  /-- OPCODE 0x6 to 0xF. -/
  | reservedOpcode
  /-- Not exactly the 8 bytes of one word (only of `decodeBytes`). -/
  | notOneWord
  deriving DecidableEq, Repr

/-- The CMD64 fields of a word (R81). -/
def cmdFields (w : Word) : CmdFields :=
  { opcode := w.extractLsb' 0 4, rsvd := w.extractLsb' 4 60 }

/-- The decode function of R83: 5 legal words, every other word rejected by name (R86). -/
def decode (w : Word) : Except IllegalWord Instr :=
  let f := cmdFields w
  if f.rsvd ≠ 0 then .error .reservedBits
  else match f.opcode.toNat with
    | 0x0 => .error .zeroOpcode
    | 0x1 => .ok .modadd
    | 0x2 => .ok .modmul
    | 0x3 => .ok .modpow
    | 0x4 => .ok .gcd
    | 0x5 => .ok .modinv
    | _ => .error .reservedOpcode

/-- The OPCODE of a command (R82). -/
def opcodeOf (i : Instr) : BitVec 4 :=
  match i with
  | .modadd => 0x1
  | .modmul => 0x2
  | .modpow => 0x3
  | .gcd => 0x4
  | .modinv => 0x5

/-- The command word: bits 63:4 zero, OPCODE in bits 3:0 (R81, R82). -/
def encode (i : Instr) : Word := (0#60 ++ opcodeOf i : BitVec 64)

/-- Byte k of a word is its bits 8k+7:8k (R54). -/
def byteOf (w : Word) (k : Nat) : Byte := w.extractLsb' (8 * k) 8

/-- The 8 byte lanes of a word, lane 0 first (R54). -/
def bytesOfWord (w : Word) : List Byte := (List.range 8).map (byteOf w)

/-- The word whose byte lanes, lane 0 first, are the given bytes (R54). -/
def wordOfBytes (bs : List Byte) : Word :=
  match bs with
  | [] => 0
  | b :: rest => (b.setWidth 64) ||| (wordOfBytes rest <<< 8)

/-- Decoding from a byte view of the written word: exactly one 64-bit word, little-endian (R54, R80). -/
def decodeBytes (bs : List Byte) : Except IllegalWord Instr :=
  if bs.length = 8 then decode (wordOfBytes bs) else .error .notOneWord

/-- The written word whose low `nbits` bits are those of `w`, the rest 0. -/
def tableWord (nbits w : Nat) : Word := BitVec.ofNat 64 (w % 2 ^ nbits)

/-- What the decoder reads from a row's bits, numbered as spec/opcode_table.json numbers them. The word is laid out in byte
lanes (R54) and given to the decoder. -/
def decodeTableWord (nbits w : Nat) : Option Instr :=
  match decodeBytes (bytesOfWord (tableWord nbits w)) with
  | .ok i => some i
  | .error _ => none

end Sys2Proof
end

