-- ==== Sys2Proof/Config.lean ====
section
/-! DEFINITION. What an implementation fixes and the FREE VALUES (spec/00_scope.md R7, spec/93_implementation_defined.md part 1).
A free value is a constant with no body: nothing about it can be proved. Each is applied to a counter of draws
(`State.draws` for the block, `Script.HostState.draws` for a host script), so that two draws need not agree. -/

namespace Sys2Proof

/-- The register window is 64 bytes, offsets 0x00 to 0x3F (R7, R50), and MODCORE_BASE is a multiple of this (R51). -/
abbrev Config.windowBytes : Nat := 64

/-- The one supported access width in bytes (R52). -/
abbrev Config.accessBytes : Nat := 8

/-- `MODINV_NONCOPRIME(e, phi)`: what MODINV writes when gcd(e, phi) ≠ 1, any 64-bit value (R7, R182; log 5).
The first argument is the draw's number. -/
opaque Config.modinvNoncoprime (draw : Nat) (e phi : Word) : Word

/-- The latched opcode after a RESET move, which the spec leaves unspecified (R30, R39; log 4). -/
opaque Config.resetLatchOp (draw : Nat) : Instr

/-- The latched 64-bit copies after a RESET move, which the spec leaves unspecified (R30, R39; log 4). -/
opaque Config.resetLatchWord (draw : Nat) : Word

/-- An integer that host arithmetic gives where R9 states no result: `div` by 0, `mod` by a number that is not positive, or `zext_N` of a
value wider than N bits (R87; log 21). The argument counts the host's draws. -/
opaque Config.hostUnstated (draw : Nat) : Int

/-- A 64-bit value that host arithmetic gives where R9 states none: a result outside [0, 2^64) assigned to a temporary, the
carry of operands that are not 64-bit values, or a bit numbered 64 or more (R8, R87; log 21). -/
opaque Config.hostUnstatedWord (draw : Nat) : Word

end Sys2Proof
end

