-- ==== Sys2Proof/Machine/State.lean ====
section
/-! DEFINITION. The state of MODCORE64 as plain data (spec/10_state.md), the bus accesses and moves of its three agents
(spec/00_scope.md R12), the reasons a step stops, and the state after reset (R39). -/

namespace Sys2Proof.Machine

/-- STATUS.ERRCODE (spec/60_exceptions.md R200). Codes 3 to 15 are never produced, so they have no name here. -/
inductive ErrCode where
  /-- 0: no error. -/
  | none
  /-- 1: the CMD word decodes as illegal. -/
  | illegalCmd
  /-- 2: OPM = 0 when a modular command is written. -/
  | modZero
  deriving DecidableEq, Repr

/-- STATUS as the tuple R26 allows: the fields of R25, the reserved bits being 0 in every read. -/
structure Status where
  /-- Bit 0: a command is in flight. -/
  busy : Bool
  /-- Bit 1: the last processed command has finished. -/
  done : Bool
  /-- Bit 2: it finished with an error. -/
  err : Bool
  /-- Bit 3, sticky: a CMD write arrived while busy and was ignored. -/
  dropped : Bool
  /-- Bits 7:4. -/
  errcode : ErrCode
  deriving DecidableEq, Repr

/-- The hidden control state (R31). -/
inductive Fsm where
  | idle
  | busy
  deriving DecidableEq, Repr

/-- The hidden latch (R30): the opcode and operands of the command in flight. -/
structure Latch where
  op : Instr
  a : Word
  b : Word
  m : Word
  deriving DecidableEq, Repr

/-- The six host-visible registers (R20). -/
inductive Reg where
  | opa
  | opb
  | opm
  | cmd
  | status
  | result
  deriving DecidableEq, Repr

/-- A host access as it arrives at the port: a byte address, a width in bytes and, for a write, the bus data (R52). Every
width and address can be written down: the unsupported ones are refused (R53). -/
inductive Access where
  | read (addr bytes : Nat)
  | write (addr bytes : Nat) (data : Word)
  deriving DecidableEq, Repr

/-- One move of one agent (R12): a HOST access, the ENGINE's turn, or RESET. -/
inductive Move where
  | host (a : Access)
  | engine
  | reset
  deriving DecidableEq, Repr

/-- Why the machine stops with a fault. The block itself has no traps (R207). -/
inductive Fault where
  /-- Raised by a host access (`atOffset`) to an address outside the 64-byte window, where the block does not respond and the
  platform decides (R56; log 9). Safe: the model stops where a platform may go on. -/
  | outsideWindow (addr : Nat)
  deriving DecidableEq, Repr

/-- Why a step has no meaning. -/
inductive Refusal where
  /-- Raised by an arm of `exec` whose instruction has no meaning yet. Safe. No arm is refused in this model. -/
  | notModelled (mnemonic : String)
  /-- Raised by a host access (`atOffset`) that is not 8 bytes wide at a multiple of 8: R53 gives it no meaning and says a model
  refuses it (log 10). Safe. -/
  | unsupportedAccess (addr bytes : Nat)
  /-- Raised by a host-script line (`Script.hostTurn`) that branches to a label the script does not hold (log 16). Safe. -/
  | scriptLabel (line : Nat)
  deriving DecidableEq, Repr

/-- All the state the spec gives the block (R20, R25, R30, R31), and below it four fields of the model's own. CMD holds no
value between writes and reads as 0 (R24), so it has no field. -/
structure State where
  /-- OPA (R21). -/
  opa : Word
  /-- OPB (R22). -/
  opb : Word
  /-- OPM (R23). -/
  opm : Word
  /-- RESULT (R27). -/
  result : Word
  /-- STATUS (R25). -/
  status : Status
  /-- The hidden control state (R31). -/
  fsm : Fsm
  /-- The hidden latch (R30). -/
  lat : Latch
  /-- Model's own: MODCORE_BASE / 64, the platform's OPEN parameter (R51; log 7). No step writes it. -/
  windowPage : Nat
  /-- Model's own: the moves still to come, in the order they arrive (R60; log 1). -/
  agenda : List Move
  /-- Model's own: what the host's reads returned, newest first (R52; log 8). -/
  replies : List Word
  /-- Model's own: how many free values have been drawn (R10; log 6). -/
  draws : Nat
  deriving DecidableEq, Repr

/-- The state right after reset (R39). The latch, which R39 leaves unspecified, holds the values log 3 names, and the model's
own fields those of logs 1, 6, 7 and 8. -/
def State.reset : State where
  opa := 0
  opb := 0
  opm := 0
  result := 0
  status := { busy := false, done := false, err := false, dropped := false, errcode := .none }
  fsm := .idle
  lat := { op := .modadd, a := 0, b := 0, m := 0 }
  windowPage := 0
  agenda := []
  replies := []
  draws := 0

end Sys2Proof.Machine
end

