-- ==== Sys2Proof/Machine/Flags.lean ====
section
/-! DEFINITION. STATUS, the block's only flag state (spec/10_state.md R25, R36): its read word and every way it is rewritten,
and the carry out of the adder, which no register shows (spec/40_modadd.md R101). -/

namespace Sys2Proof.Machine

/-- The 4-bit error code (R200). -/
def errCodeBits (c : ErrCode) : BitVec 4 :=
  match c with
  | .none => 0
  | .illegalCmd => 1
  | .modZero => 2

/-- The word a read of STATUS returns: {56'b0, ERRCODE[3:0], DROPPED, ERR, DONE, BUSY} (R25, R26). -/
def statusWord (t : Status) : Word :=
  (0#56 ++ errCodeBits t.errcode ++ BitVec.ofBool t.dropped ++ BitVec.ofBool t.err ++ BitVec.ofBool t.done
    ++ BitVec.ofBool t.busy : BitVec 64)

/-- STATUS after reset: 0 (R39). -/
def statusReset : Status := { busy := false, done := false, err := false, dropped := false, errcode := .none }

/-- STATUS after an acceptance: rewritten whole (R32). -/
def statusAccepted : Status := { busy := true, done := false, err := false, dropped := false, errcode := .none }

/-- STATUS after `raise Error(c)`: rewritten whole (R201). -/
def statusError (c : ErrCode) : Status := { busy := false, done := true, err := true, dropped := false, errcode := c }

/-- STATUS after a CMD write while busy: only DROPPED changes (R204). -/
def statusDropped (t : Status) : Status := { t with dropped := true }

/-- STATUS after a completion: only BUSY and DONE change, so DROPPED is kept (R33). -/
def statusCompleted (t : Status) : Status := { t with busy := false, done := true }

/-- The carry out of bit 63 of x +_64 y (R9, R101). -/
def carryOut (x y : Word) : Bool := decide (2 ^ 64 ≤ x.toNat + y.toNat)

end Sys2Proof.Machine
end

