-- ==== Sys2Proof/Machine/Operands.lean ====
section
/-! DEFINITION. The operands (spec/30_encoding.md R84, R85): whole registers, copied into the latch at acceptance. There is no
other operand form. -/

namespace Sys2Proof.Machine

/-- The modulus check of R84 and R32: every command but GCD fails on OPM = 0. -/
def checksModulus (i : Instr) : Bool :=
  match i with
  | .modadd => true
  | .modmul => true
  | .modpow => true
  | .gcd => false
  | .modinv => true

/-- The copy acceptance takes: the opcode and all three operand registers, the ignored ones too (R32, R165). -/
def capture (i : Instr) (s : State) : Latch := { op := i, a := s.opa, b := s.opb, m := s.opm }

end Sys2Proof.Machine
end

