-- ==== Sys2Proof/Machine/Ops.lean ====
section
/-! DEFINITION. The shared operations on the state: what a CMD write and a completion do, each written once
(spec/10_state.md R32, R33; spec/60_exceptions.md R201, R204). -/

namespace Sys2Proof.Machine

/-- A CMD write while fsm = BUSY: not decoded, not executed, DROPPED set and nothing else changed (R204). -/
def dropCommand (s : State) : State := { s with status := statusDropped s.status }

/-- `raise Error(code)` (R201): STATUS is rewritten whole and nothing else changes. This is the block's only error entry, and it
has no return: the next processed CMD write or reset replaces the error (R207, R208). -/
def raiseError (c : ErrCode) (s : State) : State := { s with status := statusError c }

/-- Acceptance: the last three lines of R32. RESULT is left unchanged. -/
def accept (i : Instr) (s : State) : State :=
  { s with lat := capture i s, fsm := .busy, status := statusAccepted }

/-- What a CMD write does by fsm (R32, R206): dropped while BUSY, else processed by `act`. -/
def processed (act : State → State) (s : State) : State :=
  match s.fsm with
  | .busy => dropCommand s
  | .idle => act s

/-- A legal command word, processed: MOD_ZERO where the modulus check fails, else acceptance (R32, R203). -/
def start (i : Instr) (s : State) : State :=
  if checksModulus i = true ∧ s.opm = 0 then raiseError .modZero s else accept i s

/-- Completion with the value r (R33): RESULT, fsm, BUSY and DONE are written, and nothing else. -/
def finish (r : Word) (s : State) : State :=
  { s with result := r, fsm := .idle, status := statusCompleted s.status }

/-- Take one free value: the draw's number is used up (R10; log 6). -/
def takeDraws (n : Nat) (s : State) : State := { s with draws := s.draws + n }

/-- The Euclidean loops' bound. Two iterations at least halve the remainder, so 128 are enough for 64-bit operands (log 13;
R162 gives 93). -/
def euclidFuel : Nat := 128

end Sys2Proof.Machine
end

