-- ==== Sys2Proof/Machine/Gcd.lean ====
section
/-! DEFINITION. The extended_euclidean_gcd and GCD (spec/43_gcd.md). -/

namespace Sys2Proof.Machine

/-- The loop of R161: while a ≠ 0, (a, b) <- (b mod a, a). It has ended before the fuel has (log 13). -/
def gcdLoop (fuel : Nat) (a b : Word) : Word :=
  match fuel with
  | 0 => b
  | n + 1 => if a = 0 then b else gcdLoop n (b % a) a

/-- The extended_euclidean_gcd (R160, R161). -/
def gcd64 (a b : Word) : Word := gcdLoop euclidFuel a b

/-- GCD, the CMD write: OPM is latched and never checked (R165). -/
def execGcd (s : State) : Host.Outcome State Fault Refusal := .next (processed (start .gcd) s)

/-- GCD, the completion: the latched OPM is not read (R165). -/
def completeGcd (s : State) : State := finish (gcd64 s.lat.a s.lat.b) s

end Sys2Proof.Machine
end

