-- ==== Sys2Proof/Machine/Modadd.lean ====
section
/-! DEFINITION. The modular_adder and MODADD (spec/40_modadd.md). -/

namespace Sys2Proof.Machine

/-- The algorithm of the modular_adder (R101): reduce an operand that is at least m, add with the carry kept, subtract m once
if the sum overflows or is still at least m. -/
def modadd64 (a b m : Word) : Word :=
  let a1 := if m ≤ a then a % m else a
  let b1 := if m ≤ b then b % m else b
  let s := a1 + b1
  if carryOut a1 b1 = true ∨ m ≤ s then s - m else s

/-- MODADD, the CMD write (R105). -/
def execModadd (s : State) : Host.Outcome State Fault Refusal := .next (processed (start .modadd) s)

/-- MODADD, the completion (R105). -/
def completeModadd (s : State) : State := finish (modadd64 s.lat.a s.lat.b s.lat.m) s

end Sys2Proof.Machine
end

