-- ==== Sys2Proof/Machine/Modinv.lean ====
section
/-! DEFINITION. The modular_inverse_unit and MODINV (spec/44_modinv.md). -/

namespace Sys2Proof.Machine

/-- The extended Euclidean loop of R183 on the remainders r0, r1 (unsigned) and the coefficients t0, t1 (signed). It answers
(r0, t0) and has ended before the fuel has (log 13). -/
def euclidLoop (fuel : Nat) (r0 r1 : Word) (t0 t1 : Int) : Word × Int :=
  match fuel with
  | 0 => (r0, t0)
  | n + 1 =>
    if r1 = 0 then (r0, t0)
    else euclidLoop n r1 (r0 - (r0 / r1) * r1) t1 (t0 - (r0 / r1).toNat * t1)

/-- The inverse the unit finds, with the one final normalisation into [0, phi) (R183), or none where it takes a draw (R182). -/
def modinvFound (e phi : Word) : Option Word :=
  let p := euclidLoop euclidFuel phi (e % phi) 0 1
  if p.1 = 1 then some (BitVec.ofInt 64 (p.2 % phi.toNat)) else none

/-- MODINV, the CMD write (R185). -/
def execModinv (s : State) : Host.Outcome State Fault Refusal := .next (processed (start .modinv) s)

/-- MODINV, the completion: the inverse, or a free value with no error where e and phi are not coprime (R182, R185; log 5). -/
def completeModinv (s : State) : State :=
  match modinvFound s.lat.a s.lat.m with
  | some d => finish d s
  | none => finish (Config.modinvNoncoprime s.draws s.lat.a s.lat.m) (takeDraws 1 s)

end Sys2Proof.Machine
end

