-- ==== Sys2Proof/Machine/Modmul.lean ====
section
/-! DEFINITION. The modular_multiplier and MODMUL (spec/41_modmul.md). -/

namespace Sys2Proof.Machine

/-- The path test of R121: the direct path exactly when a = 0 or b < MAX64 div a. -/
def takesDirectPath (a b : Word) : Bool := decide (a = 0 ∨ b < max64 / a)

/-- The direct path (R122): the low 64 bits of the product, reduced. -/
def modmulDirect (a b m : Word) : Word := (a * b) % m

/-- Iteration i of the double-and-add loop on (acc, dbl) (R123). -/
def doubleAddStep (b m : Word) (p : Word × Word) (i : Nat) : Word × Word :=
  (if b.getLsbD i then modadd64 p.1 p.2 m else p.1, modadd64 p.2 p.2 m)

/-- (acc, dbl) before iteration n of the double-and-add loop (R123, R124). -/
def doubleAddLoop (a b m : Word) (n : Nat) : Word × Word :=
  (List.range n).foldl (doubleAddStep b m) (0, a % m)

/-- The double-and-add path: all 64 iterations (R123). -/
def modmulDoubleAdd (a b m : Word) : Word := (doubleAddLoop a b m 64).1

/-- The modular_multiplier (R120, R121). -/
def modmul64 (a b m : Word) : Word :=
  if takesDirectPath a b = true then modmulDirect a b m else modmulDoubleAdd a b m

/-- MODMUL, the CMD write (R126). -/
def execModmul (s : State) : Host.Outcome State Fault Refusal := .next (processed (start .modmul) s)

/-- MODMUL, the completion (R126). -/
def completeModmul (s : State) : State := finish (modmul64 s.lat.a s.lat.b s.lat.m) s

end Sys2Proof.Machine
end

