-- ==== Sys2Proof/Machine/Modpow.lean ====
section
/-! DEFINITION. The modular_exponentiation_engine and MODPOW (spec/42_modpow.md). -/

namespace Sys2Proof.Machine

/-- Iteration i of square-and-multiply on (product, factor) (R142). -/
def squareMultiplyStep (e m : Word) (p : Word × Word) (i : Nat) : Word × Word :=
  (if e.getLsbD i then modmul64 p.1 p.2 m else p.1, modmul64 p.2 p.2 m)

/-- (product, factor) before iteration n. The initial product is 1 mod m, which is 0 when m = 1 (R141, R142). -/
def squareMultiplyLoop (x e m : Word) (n : Nat) : Word × Word :=
  (List.range n).foldl (squareMultiplyStep e m) (1 % m, x % m)

/-- The modular_exponentiation_engine: all 64 iterations (R140, R142). -/
def modpow64 (x e m : Word) : Word := (squareMultiplyLoop x e m 64).1

/-- MODPOW, the CMD write (R145). -/
def execModpow (s : State) : Host.Outcome State Fault Refusal := .next (processed (start .modpow) s)

/-- MODPOW, the completion (R145). -/
def completeModpow (s : State) : State := finish (modpow64 s.lat.a s.lat.b s.lat.m) s

end Sys2Proof.Machine
end

