-- ==== Sys2Proof/Machine/Dispatch.lean ====
section
/-! DEFINITION. exec i s: the effect of a CMD write of i's command word (spec/10_state.md R32), one arm per command. -/

namespace Sys2Proof.Machine

def exec (i : Instr) (s : State) : Host.Outcome State Fault Refusal :=
  match i with
  | .modadd => Sys2Proof.Machine.execModadd s
  | .modmul => Sys2Proof.Machine.execModmul s
  | .modpow => Sys2Proof.Machine.execModpow s
  | .gcd => Sys2Proof.Machine.execGcd s
  | .modinv => Sys2Proof.Machine.execModinv s

end Sys2Proof.Machine
end

