-- ==== Sys2Proof/Machine/Engine.lean ====
section
/-! DEFINITION. The ENGINE's one step: the completion of the command in flight (spec/10_state.md R33). -/

namespace Sys2Proof.Machine

/-- Completion of the latched command: the case of R33. -/
def complete (s : State) : State :=
  match s.lat.op with
  | .modadd => completeModadd s
  | .modmul => completeModmul s
  | .modpow => completeModpow s
  | .gcd => completeGcd s
  | .modinv => completeModinv s

/-- The ENGINE's turn: its step is enabled exactly when fsm = BUSY, and a turn while IDLE passes (R33; log 2). -/
def engineTurn (s : State) : State :=
  match s.fsm with
  | .busy => complete s
  | .idle => s

end Sys2Proof.Machine
end

