-- ==== Sys2Proof/Machine/Port.lean ====
section
/-! DEFINITION. The block's port: host reads and writes of the register window (spec/10_state.md R20 to R27, R34;
spec/20_memory.md R50 to R56) and the RESET move (spec/70_reset_and_hazards.md R230). -/

namespace Sys2Proof.Machine

/-- MODCORE_BASE, a multiple of 64 (R51). -/
def modcoreBase (s : State) : Nat := Config.windowBytes * s.windowPage

/-- The offset of a register in the window (R20). -/
def regOffset (r : Reg) : Nat :=
  match r with
  | .opa => 0x00
  | .opb => 0x08
  | .opm => 0x10
  | .cmd => 0x18
  | .status => 0x20
  | .result => 0x28

/-- The register at an offset of the window, or none at a reserved offset (R20, R56). -/
def regAt (off : Nat) : Option Reg :=
  match off with
  | 0x00 => some .opa
  | 0x08 => some .opb
  | 0x10 => some .opm
  | 0x18 => some .cmd
  | 0x20 => some .status
  | 0x28 => some .result
  | _ => none

/-- What a host read returns (R34): the current value, and 0 for CMD and the reserved offsets (R24, R56). -/
def readReg (r : Option Reg) (s : State) : Word :=
  match r with
  | some .opa => s.opa
  | some .opb => s.opb
  | some .opm => s.opm
  | some .cmd => 0
  | some .status => statusWord s.status
  | some .result => s.result
  | none => 0

/-- A host write of w to CMD (R32): dropped undecoded while BUSY (R204), ILLEGAL_CMD on an illegal word (R202), else the
command's own effect. -/
def cmdWrite (w : Word) (s : State) : Host.Outcome State Fault Refusal :=
  match s.fsm with
  | .busy => .next (dropCommand s)
  | .idle =>
    match decode w with
    | .error _ => .next (raiseError .illegalCmd s)
    | .ok i => exec i s

/-- What a host write does (R34): OPA, OPB and OPM are set whether or not the ENGINE is busy (R21 to R23), CMD is processed, and
a write to STATUS, RESULT or a reserved offset changes nothing. -/
def writeReg (r : Option Reg) (v : Word) (s : State) : Host.Outcome State Fault Refusal :=
  match r with
  | some .opa => .next { s with opa := v }
  | some .opb => .next { s with opb := v }
  | some .opm => .next { s with opm := v }
  | some .cmd => cmdWrite v s
  | some .status => .next s
  | some .result => .next s
  | none => .next s

/-- The supported form of an access: 8 bytes at a multiple of 8 (R52). -/
def supportedForm (addr bytes : Nat) : Bool := decide (bytes = Config.accessBytes ∧ addr % Config.accessBytes = 0)

/-- The address is in the 64-byte window (R50). -/
def inWindow (s : State) (addr : Nat) : Bool :=
  decide (modcoreBase s ≤ addr ∧ addr < modcoreBase s + Config.windowBytes)

/-- Go on with the access's offset in the window: an unsupported form is refused (R53; log 10), and outside the window the block
does not respond (R56; log 9). -/
def atOffset (addr bytes : Nat) (act : Nat → State → Host.Outcome State Fault Refusal) (s : State) :
    Host.Outcome State Fault Refusal :=
  if supportedForm addr bytes = true then
    if inWindow s addr = true then act (addr - modcoreBase s) s
    else .fault (.outsideWindow addr)
  else .refused (.unsupportedAccess addr bytes)

/-- One host access (R52): a read's data goes to the host and nothing of the block changes (R55). -/
def hostAccess (a : Access) (s : State) : Host.Outcome State Fault Refusal :=
  match a with
  | .read addr bytes => atOffset addr bytes (fun off s => .next { s with replies := readReg (regAt off) s :: s.replies }) s
  | .write addr bytes v => atOffset addr bytes (fun off s => writeReg (regAt off) v s) s

/-- The latch after a RESET move is unspecified: four free values (R39; log 4). -/
def resetLatch (draw : Nat) : Latch :=
  { op := Config.resetLatchOp draw
    a := Config.resetLatchWord draw
    b := Config.resetLatchWord (draw + 1)
    m := Config.resetLatchWord (draw + 2) }

/-- The RESET move (R230, R231): every register to its reset value, the command in flight abandoned, the latch unspecified. What
is outside the block (the window's address, the moves to come, the data the host has read) is not reset. -/
def resetBlock (s : State) : State :=
  { s with opa := 0, opb := 0, opm := 0, result := 0, status := statusReset, fsm := .idle,
           lat := resetLatch s.draws, draws := s.draws + 3 }

/-- One move of one agent (R12, R60). -/
def performMove (m : Move) (s : State) : Host.Outcome State Fault Refusal :=
  match m with
  | .host a => hostAccess a s
  | .engine => .next (engineTurn s)
  | .reset => .next (resetBlock s)

end Sys2Proof.Machine
end

