-- ==== Sys2Proof/Machine/Step.lean ====
section
/-! DEFINITION. One step of the machine: the next move of the interleaving (spec/20_memory.md R60). -/

namespace Sys2Proof.Machine

/-- The next move of the agenda. With no move left, a BUSY engine completes (weak fairness, R245) and an IDLE block does nothing
(R223; log 2). -/
def step (s : State) : Host.Outcome State Fault Refusal :=
  match s.agenda with
  | [] => .next (engineTurn s)
  | m :: rest => performMove m { s with agenda := rest }

/-- The state in which the host's next access is the CMD write of the given word: the block fetches nothing (R35), and a command
is the word written to CMD (R64; log 11). -/
def State.withFetchWord (s : State) (nbits w : Nat) : State :=
  { s with
    agenda := .host (.write (modcoreBase s + regOffset .cmd) Config.accessBytes (tableWord nbits w)) :: s.agenda }

end Sys2Proof.Machine
end

