-- ==== Sys2Proof/Machine/Script.lean ====
section
/-! DEFINITION. The host script notation and its pseudo-instructions (spec/30_encoding.md R87, R88), as a layer over `step`. The
temporaries are host state, not block state (R87), so they are not in `State`. The conventions R87 leaves open are log 16's, and the results R9 does not state are the
free values of log 21: host arithmetic never ends a run. -/

namespace Sys2Proof.Machine.Script

/-- A value of a script line: a constant or a temporary t0 to t15 (R88). -/
inductive Operand where
  | const (v : Word)
  | temp (t : Fin 16)
  deriving DecidableEq, Repr

/-- The STATUS fields a script names in a read STATUS word (R87). -/
inductive StatusField where
  | busy
  | done
  | err
  | dropped
  | errcode
  deriving DecidableEq, Repr

/-- Host arithmetic with the operators of R9: over the integers, or modulo 2^64 where marked 64. `sext_N` does not occur (R9). -/
inductive Expr where
  | arg (o : Operand)
  /-- A numeral of any size, since the arithmetic is over the unbounded integers. -/
  | lit (n : Nat)
  | field (t : Fin 16) (f : StatusField)
  /-- `t<i>[n]` (R8). -/
  | bit (t : Fin 16) (n : Nat)
  | add (x y : Expr)
  | sub (x y : Expr)
  | mul (x y : Expr)
  | div (x y : Expr)
  | mod (x y : Expr)
  | add64 (x y : Expr)
  /-- The carry out of `x +_64 y`, which R9 says is named. -/
  | carry64 (x y : Expr)
  | sub64 (x y : Expr)
  /-- Not an operator of R9, but what R87's "written with `_64` where it wraps" gives for a product (log 16). -/
  | mul64 (x y : Expr)
  | gcd (x y : Expr)
  /-- `zext_N(x)`. -/
  | zext (n : Nat) (x : Expr)
  deriving DecidableEq, Repr

/-- The condition of a host branch. -/
inductive Cond where
  | eq (x y : Expr)
  | ne (x y : Expr)
  | lt (x y : Expr)
  | ge (x y : Expr)
  deriving DecidableEq, Repr

/-- One line of a host script (R87), a label standing on a line of its own. -/
inductive Line where
  /-- `W <REG>, <v>`. -/
  | write (r : Reg) (v : Operand)
  /-- `R <REG> -> t<i>`. -/
  | read (r : Reg) (t : Fin 16)
  /-- `CMD <MNEMONIC>`. -/
  | cmd (i : Instr)
  /-- `CMD <v>` for a literal word, legal or not. -/
  | cmdWord (w : Word)
  /-- `POLL -> t<i>`. -/
  | poll (t : Fin 16)
  /-- `t<i> <- <expr>`. -/
  | assign (t : Fin 16) (e : Expr)
  /-- `IF <cond> GOTO <label>`. -/
  | ifGoto (c : Cond) (target : String)
  /-- `GOTO <label>`. -/
  | goto (target : String)
  /-- `<label>:`. -/
  | label (name : String)
  /-- `HALT`. -/
  | halt
  deriving DecidableEq, Repr

/-- The pseudo-instructions of R88. -/
inductive Pseudo where
  | modadd (t : Fin 16) (a b m : Operand)
  | modmul (t : Fin 16) (a b m : Operand)
  | modpow (t : Fin 16) (x e m : Operand)
  | gcd (t : Fin 16) (a b : Operand)
  | modinv (t : Fin 16) (e phi : Operand)
  deriving DecidableEq, Repr

/-- Start a command, poll into t15 and read RESULT: the tail every expansion of R88 shares. -/
def runAndRead (i : Instr) (t : Fin 16) : List Line := [.cmd i, .poll 15, .read .result t]

/-- The expansion of a pseudo-instruction (R88). -/
def expand (p : Pseudo) : List Line :=
  match p with
  | .modadd t a b m => [.write .opa a, .write .opb b, .write .opm m] ++ runAndRead .modadd t
  | .modmul t a b m => [.write .opa a, .write .opb b, .write .opm m] ++ runAndRead .modmul t
  | .modpow t x e m => [.write .opa x, .write .opb e, .write .opm m] ++ runAndRead .modpow t
  | .gcd t a b => [.write .opa a, .write .opb b] ++ runAndRead .gcd t
  | .modinv t e phi => [.write .opa e, .write .opm phi] ++ runAndRead .modinv t

/-- A host and the block it drives. -/
structure HostState where
  /-- t0 to t15. -/
  temps : Vector Word 16
  /-- The script line reached. -/
  line : Nat
  /-- Whether the script has ended. -/
  halted : Bool
  /-- How many values the host's arithmetic has drawn where R9 states none (log 21); the block's draws are `State.draws`. -/
  draws : Nat
  block : State
  deriving DecidableEq, Repr

/-- The agents of R12, as a script run's schedule names them. -/
inductive Agent where
  | host
  | engine
  | reset
  deriving DecidableEq, Repr

/-- An operand's value. -/
def operandValue (temps : Vector Word 16) (o : Operand) : Word :=
  match o with
  | .const v => v
  | .temp t => temps[t]

/-- A field of a read STATUS word, by its bits (R25, R87). -/
def statusFieldOf (w : Word) (f : StatusField) : Nat :=
  match f with
  | .busy => (w.extractLsb' 0 1).toNat
  | .done => (w.extractLsb' 1 1).toNat
  | .err => (w.extractLsb' 2 1).toNat
  | .dropped => (w.extractLsb' 3 1).toNat
  | .errcode => (w.extractLsb' 4 4).toNat

/-- An evaluation takes the number of the next free value to a result and the number of the one after it (log 21). -/
abbrev Eval (α : Type) : Type := Nat → α × Nat

/-- A result the rules state. -/
def known {α : Type} (v : α) : Eval α := fun draw => (v, draw)

/-- A result they do not state: a free value, and the counter goes on (log 21). -/
def drawn {α : Type} (free : Nat → α) : Eval α := fun draw => (free draw, draw + 1)

/-- Evaluate one operand, then the other, then the operator. -/
def onBoth {α : Type} (x y : Eval Int) (op : Int → Int → Eval α) : Eval α :=
  fun draw => op (x draw).1 (y (x draw).2).1 (y (x draw).2).2

/-- `u div v` is floor(u / v) (R9), a negative v included. There is no quotient by 0, so none is stated (log 21). -/
def divValue (u v : Int) : Eval Int := if v ≠ 0 then known (Int.fdiv u v) else drawn Config.hostUnstated

/-- `u mod v` is the remainder in [0, v) for v > 0 (R9). For a v that is not positive R9 states none (log 21). -/
def modValue (u v : Int) : Eval Int := if 0 < v then known (u % v) else drawn Config.hostUnstated

/-- Whether a value is in [0, 2^bits). -/
def fitsIn (bits : Nat) (v : Int) : Bool := decide (0 ≤ v ∧ v < 2 ^ bits)

/-- The carry out of `u +_64 v`: bit 64 of the sum of two 64-bit values (R9). For an operand that is no 64-bit value no carry is
stated, and the bit is free (log 21). -/
def carryValue (u v : Int) : Eval Int :=
  if fitsIn 64 u ∧ fitsIn 64 v then known ((u + v) / 2 ^ 64)
  else drawn (fun draw => ((Config.hostUnstatedWord draw).extractLsb' 0 1).toNat)

/-- `zext_N(v)` is v in N bits (R9). For a v that is no N-bit value no result is stated, and the N bits are free (log 21). -/
def zextValue (bits : Nat) (v : Int) : Eval Int :=
  if fitsIn bits v then known v else drawn (fun draw => Config.hostUnstated draw % 2 ^ bits)

/-- `w[i]` is bit i of w (R8). For an i of 64 or more no bit is stated, and the bit is free (log 21). -/
def bitValue (w : Word) (i : Nat) : Eval Int :=
  if i < 64 then known (w.extractLsb' i 1).toNat
  else drawn (fun draw => ((Config.hostUnstatedWord draw).extractLsb' 0 1).toNat)

/-- The value of an expression over the integers (R9). -/
def exprValue (temps : Vector Word 16) (e : Expr) : Eval Int :=
  match e with
  | .arg o => known (operandValue temps o).toNat
  | .lit n => known n
  | .field t f => known (statusFieldOf temps[t] f)
  | .bit t n => bitValue temps[t] n
  | .add x y => onBoth (exprValue temps x) (exprValue temps y) (fun u v => known (u + v))
  | .sub x y => onBoth (exprValue temps x) (exprValue temps y) (fun u v => known (u - v))
  | .mul x y => onBoth (exprValue temps x) (exprValue temps y) (fun u v => known (u * v))
  | .div x y => onBoth (exprValue temps x) (exprValue temps y) divValue
  | .mod x y => onBoth (exprValue temps x) (exprValue temps y) modValue
  | .add64 x y => onBoth (exprValue temps x) (exprValue temps y) (fun u v => known ((u + v) % 2 ^ 64))
  | .carry64 x y => onBoth (exprValue temps x) (exprValue temps y) carryValue
  | .sub64 x y => onBoth (exprValue temps x) (exprValue temps y) (fun u v => known ((u - v) % 2 ^ 64))
  | .mul64 x y => onBoth (exprValue temps x) (exprValue temps y) (fun u v => known ((u * v) % 2 ^ 64))
  | .gcd x y => onBoth (exprValue temps x) (exprValue temps y) (fun u v => known (Int.gcd u v))
  | .zext n x => fun draw => zextValue n (exprValue temps x draw).1 (exprValue temps x draw).2

/-- Whether a condition holds. -/
def condValue (temps : Vector Word 16) (c : Cond) : Eval Bool :=
  match c with
  | .eq x y => onBoth (exprValue temps x) (exprValue temps y) (fun u v => known (decide (u = v)))
  | .ne x y => onBoth (exprValue temps x) (exprValue temps y) (fun u v => known (decide (u ≠ v)))
  | .lt x y => onBoth (exprValue temps x) (exprValue temps y) (fun u v => known (decide (u < v)))
  | .ge x y => onBoth (exprValue temps x) (exprValue temps y) (fun u v => known (decide (v ≤ u)))

/-- The 64-bit value a temporary takes from a host result. For a result outside [0, 2^64) none is stated (log 21). -/
def wordValue (v : Int) : Eval Word :=
  if fitsIn 64 v then known (BitVec.ofInt 64 v) else drawn Config.hostUnstatedWord

/-- The line at which a label stands. -/
def labelLine (script : List Line) (name : String) : Option Nat := script.findIdx? (fun l => decide (l = .label name))

/-- The script goes on at the next line. -/
def advance (h : HostState) : HostState := { h with line := h.line + 1 }

/-- Set a temporary. -/
def setTemp (t : Fin 16) (v : Word) (h : HostState) : HostState := { h with temps := h.temps.set t v }

/-- `t<i> <- <expr>` (R87). -/
def assign (t : Fin 16) (e : Expr) (h : HostState) : HostState :=
  let value := exprValue h.temps e h.draws
  let word := wordValue value.1 value.2
  advance (setTemp t word.1 { h with draws := word.2 })

/-- Perform one move of the block, before whatever its agenda holds, and go on with the block's next state. -/
def drive (m : Move) (h : HostState) (k : HostState → HostState) : Host.Outcome HostState Fault Refusal :=
  match step { h.block with agenda := m :: h.block.agenda } with
  | .next s => .next (k { h with block := s })
  | .fault r => .fault r
  | .refused r => .refused r

/-- The bus address of a register: MODCORE_BASE + off(REG) (R87). -/
def regAddr (h : HostState) (r : Reg) : Nat := modcoreBase h.block + regOffset r

/-- A 64-bit write of a register (R87). -/
def busWrite (r : Reg) (v : Word) (h : HostState) (k : HostState → HostState) : Host.Outcome HostState Fault Refusal :=
  drive (.host (.write (regAddr h r) Config.accessBytes v)) h k

/-- A 64-bit read of a register; its data is the newest reply (R87). -/
def busRead (r : Reg) (h : HostState) (k : Word → HostState → HostState) : Host.Outcome HostState Fault Refusal :=
  drive (.host (.read (regAddr h r) Config.accessBytes)) h (fun h' => k (h'.block.replies.headD 0) h')

/-- After one STATUS read of POLL: keep the word, and go on only when its bit 0 is 0 (R87). -/
def afterPoll (t : Fin 16) (w : Word) (h : HostState) : HostState :=
  if w.getLsbD 0 = true then setTemp t w h else advance (setTemp t w h)

/-- Go to a label's line; a label the script does not hold is refused (log 16). -/
def jump (script : List Line) (name : String) (h : HostState) : Host.Outcome HostState Fault Refusal :=
  match labelLine script name with
  | some n => .next { h with line := n }
  | none => .refused (.scriptLabel h.line)

/-- `IF <cond> GOTO <label>` (R87). -/
def branch (script : List Line) (c : Cond) (name : String) (h : HostState) : Host.Outcome HostState Fault Refusal :=
  let holds := condValue h.temps c h.draws
  let h' := { h with draws := holds.2 }
  if holds.1 = true then jump script name h' else .next (advance h')

/-- The host's turn: it performs the script line it has reached, one bus access at most (R87). A script that has run past its last
line has ended. -/
def hostTurn (script : List Line) (h : HostState) : Host.Outcome HostState Fault Refusal :=
  if h.halted = true then .next h
  else match script[h.line]? with
    | none => .next { h with halted := true }
    | some (.write r v) => busWrite r (operandValue h.temps v) h advance
    | some (.read r t) => busRead r h (fun w h' => advance (setTemp t w h'))
    | some (.cmd i) => busWrite .cmd (encode i) h advance
    | some (.cmdWord w) => busWrite .cmd w h advance
    | some (.poll t) => busRead .status h (afterPoll t)
    | some (.assign t e) => .next (assign t e h)
    | some (.ifGoto c name) => branch script c name h
    | some (.goto name) => jump script name h
    | some (.label _) => .next (advance h)
    | some .halt => .next { h with halted := true }

/-- One agent's turn. -/
def agentTurn (script : List Line) (a : Agent) (h : HostState) : Host.Outcome HostState Fault Refusal :=
  match a with
  | .host => hostTurn script h
  | .engine => drive .engine h id
  | .reset => drive .reset h id

/-- A script run under a schedule of agents' turns (R60). The schedule is any finite list: DESIGN CHOICE, unlike `step` with an
empty agenda no fairness is built in, so a run may end with a POLL still waiting on a BUSY block (log 2; R245's weak fairness is the
schedule's to give). -/
def runScript (script : List Line) (schedule : List Agent) (h : HostState) : Host.Outcome HostState Fault Refusal :=
  match schedule with
  | [] => .next h
  | a :: rest =>
    match agentTurn script a h with
    | .next h' => runScript script rest h'
    | .fault r => .fault r
    | .refused r => .refused r

end Sys2Proof.Machine.Script
end

