-- ==== Sys2Proof/Safety.lean ====
section
/-! DEFINITION. What claims are stated in: the invariants of the state (spec/10_state.md R26, R31, R33), what a command's result
is (R84), what a host access may be (spec/20_memory.md R52), and runs. -/

namespace Sys2Proof.Machine

/-- The first three STATUS invariants of R26. -/
abbrev StatusOk (t : Status) : Prop :=
  (t.busy = true → t.done = false ∧ t.err = false ∧ t.errcode = .none) ∧
  (t.err = true ↔ t.errcode ≠ .none) ∧
  (t.err = true → t.done = true)

/-- STATUS.BUSY always equals (fsm = BUSY) (R31). -/
abbrev BusyIsFsm (s : State) : Prop := s.status.busy = true ↔ s.fsm = .busy

/-- A modular command in flight has a nonzero latched modulus, so no completion fails (R33). -/
abbrev LatchOk (s : State) : Prop := s.fsm = .busy → checksModulus s.lat.op = true → s.lat.m ≠ 0

/-- The invariant every step keeps. -/
abbrev Inv (s : State) : Prop := StatusOk s.status ∧ BusyIsFsm s ∧ LatchOk s

/-- r is a result of the latched command, over the integers (R84, R100, R120, R140, R160, R180). A MODINV on a non-coprime pair
may have any result (R182). -/
def IsResultOf (l : Latch) (r : Word) : Prop :=
  match l.op with
  | .modadd => r.toNat = (l.a.toNat + l.b.toNat) % l.m.toNat
  | .modmul => r.toNat = (l.a.toNat * l.b.toNat) % l.m.toNat
  | .modpow => r.toNat = (l.a.toNat ^ l.b.toNat) % l.m.toNat
  | .gcd => r.toNat = Nat.gcd l.a.toNat l.b.toNat
  | .modinv => Nat.gcd l.a.toNat l.m.toNat = 1 →
      r.toNat < l.m.toNat ∧ (r.toNat * l.a.toNat) % l.m.toNat = 1 % l.m.toNat

/-- Whenever STATUS says DONE = 1 and ERR = 0, RESULT is a result of the last accepted command (R61 item 3, R241). -/
def ResultOk (s : State) : Prop := s.status.done = true → s.status.err = false → IsResultOf s.lat s.result

/-- The state in which m is the next move of the interleaving (R60): nothing else of the state changes. -/
def State.nextMove (s : State) (m : Move) : State := { s with agenda := m :: s.agenda }

/-- The host's next access is an 8-byte write of v at the offset (R52). -/
def State.hostWrites (s : State) (off : Nat) (v : Word) : State := s.nextMove (.host (.write (64 * s.windowPage + off) 8 v))

/-- The host's next access is an 8-byte read at the offset (R52). -/
def State.hostReads (s : State) (off : Nat) : State := s.nextMove (.host (.read (64 * s.windowPage + off) 8))

/-- The step of s is a write of v at the offset. -/
def WritesNext (s : State) (off : Nat) (v : Word) : Prop :=
  s.agenda.head? = some (.host (.write (64 * s.windowPage + off) 8 v))

/-- The step of s is the RESET move. -/
def ResetsNext (s : State) : Prop := s.agenda.head? = some .reset

/-- The step of s is the ENGINE's: its turn has come, or no other move is left. -/
def EngineNext (s : State) : Prop := s.agenda = [] ∨ s.agenda.head? = some .engine

/-- The state after an acceptance of i (R32). -/
def acceptedState (i : Instr) (s : State) : State :=
  { s with
    lat := { op := i, a := s.opa, b := s.opb, m := s.opm }
    fsm := .busy
    status := { busy := true, done := false, err := false, dropped := false, errcode := .none } }

/-- The state after the completion of an accepted command with RESULT r and no CMD write dropped meanwhile (R33). -/
def completedState (r : Word) (t : State) : State :=
  { t with
    result := r
    fsm := .idle
    status := { busy := false, done := true, err := false, dropped := false, errcode := .none } }

/-- The state after a MOD_ZERO report (R201, R203). -/
def modZeroState (s : State) : State :=
  { s with status := { busy := false, done := true, err := true, dropped := false, errcode := .modZero } }

/-- The address of an access. -/
def accessAddr (a : Access) : Nat :=
  match a with
  | .read addr _ => addr
  | .write addr _ _ => addr

/-- The width of an access in bytes. -/
def accessWidth (a : Access) : Nat :=
  match a with
  | .read _ bytes => bytes
  | .write _ bytes _ => bytes

/-- A supported access (R52): 8 bytes, at a multiple of 8, inside the window. -/
def Supported (s : State) (a : Access) : Prop :=
  accessWidth a = 8 ∧ accessAddr a % 8 = 0 ∧ modcoreBase s ≤ accessAddr a ∧ accessAddr a < modcoreBase s + 64

/-- Every host access still to come is supported, so no step of a run stops. -/
def SafeAgenda (s : State) : Prop := ∀ a, Move.host a ∈ s.agenda → Supported s a

/-- k steps, stopping at the first fault or refusal. -/
def runSteps (k : Nat) (s : State) : Host.Outcome State Fault Refusal :=
  match k with
  | 0 => .next s
  | n + 1 =>
    match step s with
    | .next t => runSteps n t
    | .fault r => .fault r
    | .refused r => .refused r

/-- The two states are equal but for a latch that no completion can read, because both are IDLE (R30). -/
def EqualButIdleLatch (s s' : State) : Prop :=
  s' = s ∨ (s.fsm = .idle ∧ s' = { s with lat := s'.lat })

/-- Two outcomes agree: related next states, or the same stop. -/
def OutcomesAgree (rel : State → State → Prop) (o o' : Host.Outcome State Fault Refusal) : Prop :=
  match o, o' with
  | .next s, .next s' => rel s s'
  | .fault r, .fault r' => r = r'
  | .refused r, .refused r' => r = r'
  | _, _ => False

end Sys2Proof.Machine
end

