-- ==== Sys2Proof/Certificates/Slice0/Obligations.lean ====
section
/-! DEFINITION. The statements for the provers. Each says what the machine does, from the numbered rules of spec/; OBLIGATIONS.json
gives each its rule, and its sentence where it is stated word for word. -/

open Sys2Proof Sys2Proof.Machine

/-! ### Encoding -/

/-- Command words of the opcode map (R82), written out from it, decode to their commands, and other words of
95_test_vectors.md section 2.6 are illegal. -/
def Obligations.OpcodeMapWordsDecode : Prop :=
  decode 0x0000_0000_0000_0001#64 = .ok .modadd ∧
  decode 0x0000_0000_0000_0002#64 = .ok .modmul ∧
  decode 0x0000_0000_0000_0003#64 = .ok .modpow ∧
  decode 0x0000_0000_0000_0004#64 = .ok .gcd ∧
  decode 0x0000_0000_0000_0005#64 = .ok .modinv ∧
  decode 0x0000_0000_0000_0000#64 = .error .zeroOpcode ∧
  decode 0x0000_0000_0000_0006#64 = .error .reservedOpcode ∧
  decode 0x8000_0000_0000_0001#64 = .error .reservedBits

/-- Decoding an encoded command gives it back, from the word and from its byte lanes. -/
def Obligations.DecodeOfEncodeIsTheCommand : Prop :=
  ∀ i : Instr, decode (encode i) = .ok i ∧ decodeBytes (bytesOfWord (encode i)) = .ok i

/-- The decode function of R83 over all 2^64 words: the words 1 to 5, and no others, decode, each to its command, and decoding and
encoding are inverse to each other. -/
def Obligations.LegalWordsAreExactlyFive : Prop :=
  ∀ w : Word,
    (decode w = .ok .modadd ↔ w.toNat = 1) ∧
    (decode w = .ok .modmul ↔ w.toNat = 2) ∧
    (decode w = .ok .modpow ↔ w.toNat = 3) ∧
    (decode w = .ok .gcd ↔ w.toNat = 4) ∧
    (decode w = .ok .modinv ↔ w.toNat = 5) ∧
    (∀ i, decode w = .ok i ↔ w = encode i) ∧
    ((∃ r, decode w = .error r) ↔ w.toNat < 1 ∨ 5 < w.toNat)

/-- A word is illegal exactly when it has a bit of 63:4 set, or OPCODE 0x0, or OPCODE 0x6 to 0xF (R86); these are exactly the words
whose CMD64 fields fail a check of WellFormed.lean. -/
def Obligations.IllegalWordsAreTheReservedOnes : Prop :=
  ∀ w : Word,
    ((∃ r, decode w = .error r) ↔
      (w.extractLsb' 4 60 ≠ 0 ∨ w.extractLsb' 0 4 = 0 ∨ 6 ≤ (w.extractLsb' 0 4).toNat)) ∧
    ((∃ i, decode w = .ok i) ↔ (cmdFields w).wf = true)

/-- Byte k of a 64-bit access is register bits 8k+7 to 8k (R54): the byte lanes give the word back, and decoding from the lanes is
decoding the word; any other number of bytes is rejected. -/
def Obligations.ByteLanesAreLittleEndian : Prop :=
  (∀ (w : Word) (k j : Nat), k < 8 → j < 8 → ((bytesOfWord w)[k]?.map (fun b => b.getLsbD j)) = some (w.getLsbD (8 * k + j))) ∧
  (∀ w : Word, wordOfBytes (bytesOfWord w) = w ∧ decodeBytes (bytesOfWord w) = decode w) ∧
  (∀ bs : List Byte, bs.length ≠ 8 → decodeBytes bs = .error .notOneWord)

/-! ### Registers and host accesses -/

/-- What reset leaves (R39), the latch apart, which R39 leaves unspecified. -/
def Obligations.ResetStateHoldsTheSpecValues : Prop :=
  State.reset.opa = 0 ∧ State.reset.opb = 0 ∧ State.reset.opm = 0 ∧ State.reset.result = 0 ∧
  readReg (some .cmd) State.reset = 0 ∧ statusWord State.reset.status = 0 ∧
  State.reset.status.busy = false ∧ State.reset.status.done = false ∧ State.reset.status.err = false ∧
  State.reset.status.dropped = false ∧ State.reset.status.errcode = .none ∧
  State.reset.fsm = .idle

/-- The RESET move, from every state (BUSY ones too), gives every register its reset value and IDLE; the command in flight is
abandoned, so an ENGINE turn after it changes nothing and RESULT stays 0 (R230, R231). That RESULT is 0 and not what it was is log
17's reading of those rules against R27's words. That the coming moves, the platform's address and the host's replies are kept is
the MODEL'S CHOICE (logs 1, 7 and 8). -/
def Obligations.ResetMoveAbandonsTheCommand : Prop :=
  ∀ s : State, ∃ t : State,
    step (s.nextMove .reset) = .next t ∧
    t.opa = 0 ∧ t.opb = 0 ∧ t.opm = 0 ∧ t.result = 0 ∧ t.fsm = .idle ∧
    t.status = { busy := false, done := false, err := false, dropped := false, errcode := .none } ∧
    t.windowPage = s.windowPage ∧ t.agenda = s.agenda ∧ t.replies = s.replies ∧
    step (t.nextMove .engine) = .next t

/-- OPA, OPB and OPM are set whole by a host write, busy or not, the command in flight keeping its latch; a read then returns the
value written, or 0 after reset (R21). -/
def Obligations.OperandWritesSetTheRegister : Prop :=
  ∀ (s : State) (v : Word),
    step (s.hostWrites 0x00 v) = .next { s with opa := v } ∧
    step (s.hostWrites 0x08 v) = .next { s with opb := v } ∧
    step (s.hostWrites 0x10 v) = .next { s with opm := v } ∧
    (∀ t, step (s.hostWrites 0x00 v) = .next t → step (t.hostReads 0x00) = .next { t with replies := v :: t.replies }) ∧
    (∀ t, step (s.hostWrites 0x08 v) = .next t → step (t.hostReads 0x08) = .next { t with replies := v :: t.replies }) ∧
    (∀ t, step (s.hostWrites 0x10 v) = .next t → step (t.hostReads 0x10) = .next { t with replies := v :: t.replies }) ∧
    (∀ off, off ∈ [0x00, 0x08, 0x10] → ∃ t, step (State.reset.hostReads off) = .next t ∧ t.replies = [0])

/-- A read of each of the eight offsets returns the register's current value, 0 for CMD and the reserved offsets, and changes
nothing of the block; a write to OPA, OPB or OPM sets it, and a write to STATUS, RESULT or a reserved offset changes nothing
(R34). -/
def Obligations.OtherHostAccessEffects : Prop :=
  ∀ (s : State) (v : Word),
    step (s.hostWrites 0x00 v) = .next { s with opa := v } ∧
    step (s.hostWrites 0x08 v) = .next { s with opb := v } ∧
    step (s.hostWrites 0x10 v) = .next { s with opm := v } ∧
    step (s.hostWrites 0x20 v) = .next s ∧
    step (s.hostWrites 0x28 v) = .next s ∧
    step (s.hostWrites 0x30 v) = .next s ∧
    step (s.hostWrites 0x38 v) = .next s ∧
    step (s.hostReads 0x00) = .next { s with replies := s.opa :: s.replies } ∧
    step (s.hostReads 0x08) = .next { s with replies := s.opb :: s.replies } ∧
    step (s.hostReads 0x10) = .next { s with replies := s.opm :: s.replies } ∧
    step (s.hostReads 0x18) = .next { s with replies := 0 :: s.replies } ∧
    step (s.hostReads 0x20) = .next { s with replies := statusWord s.status :: s.replies } ∧
    step (s.hostReads 0x28) = .next { s with replies := s.result :: s.replies } ∧
    step (s.hostReads 0x30) = .next { s with replies := 0 :: s.replies } ∧
    step (s.hostReads 0x38) = .next { s with replies := 0 :: s.replies }

/-- The word a STATUS read returns: BUSY, DONE, ERR, DROPPED in bits 0 to 3, ERRCODE 0, 1 or 2 in bits 7:4, 0 above (R25). -/
def Obligations.StatusWordBits : Prop :=
  ∀ t : Status,
    (statusWord t).getLsbD 0 = t.busy ∧ (statusWord t).getLsbD 1 = t.done ∧ (statusWord t).getLsbD 2 = t.err ∧
    (statusWord t).getLsbD 3 = t.dropped ∧ (statusWord t).extractLsb' 8 56 = 0 ∧
    (t.errcode = .none → (statusWord t).extractLsb' 4 4 = 0) ∧
    (t.errcode = .illegalCmd → (statusWord t).extractLsb' 4 4 = 1) ∧
    (t.errcode = .modZero → (statusWord t).extractLsb' 4 4 = 2)

/-- An access that is not 8 bytes wide, or not at a multiple of 8, is refused (R53), wherever it is. That it is a refusal outside the
window too, and not the fault of log 9, is the MODEL'S CHOICE of the order of the two checks (log 10). -/
def Obligations.UnsupportedAccessIsRefused : Prop :=
  ∀ (s : State) (addr bytes : Nat) (v : Word), bytes ≠ 8 ∨ addr % 8 ≠ 0 →
    step (s.nextMove (.host (.read addr bytes))) = .refused (.unsupportedAccess addr bytes) ∧
    step (s.nextMove (.host (.write addr bytes v))) = .refused (.unsupportedAccess addr bytes)

/-- An aligned 8-byte access outside the 64-byte window stops with the model's fault. R56 leaves such an access to the platform, so
the fault is the MODEL'S CHOICE (log 9). -/
def Obligations.AccessOutsideTheWindowFaults : Prop :=
  ∀ (s : State) (addr : Nat) (v : Word),
    addr % 8 = 0 → addr < 64 * s.windowPage ∨ 64 * s.windowPage + 64 ≤ addr →
    step (s.nextMove (.host (.read addr 8))) = .fault (.outsideWindow addr) ∧
    step (s.nextMove (.host (.write addr 8 v))) = .fault (.outsideWindow addr)

/-- A step answers a next state exactly when its move is not an unsupported host access: every supported access is performed, in
every state (R52, R212), and the ENGINE's and RESET's moves never stop. The other direction is the MODEL'S CHOICE where it speaks of
an access outside the window, which R56 leaves to the platform and the model stops (log 9); that an access of another width or
alignment stops is R53's refusal, checked before the window (log 10). -/
def Obligations.StepsStopOnlyOnUnsupportedAccesses : Prop :=
  ∀ s : State, (∃ t, step s = .next t) ↔ ∀ a, s.agenda.head? = some (.host a) → Supported s a

/-- Writing OPA, OPB or OPM twice with one value is writing it once, and two reads of one register in a row return the same word
and leave the block as it was (R55). -/
def Obligations.WritesAndReadsAreIdempotent : Prop :=
  ∀ (s t : State) (off : Nat) (v : Word),
    (off ∈ [0x00, 0x08, 0x10] → step (s.hostWrites off v) = .next t → step (t.hostWrites off v) = .next t) ∧
    (off ∈ [0x00, 0x08, 0x10, 0x18, 0x20, 0x28, 0x30, 0x38] → step (s.hostReads off) = .next t →
      ∃ r, t = { s with replies := r :: s.replies } ∧ step (t.hostReads off) = .next { s with replies := r :: r :: s.replies })

/-! ### The CMD write -/

/-- A CMD write in every case of R32, in its order: dropped undecoded while BUSY, ILLEGAL_CMD, MOD_ZERO, acceptance. -/
def Obligations.CmdWriteFollowsItsRule : Prop :=
  ∀ (s : State) (w : Word),
    (s.fsm = .busy → step (s.hostWrites 0x18 w) = .next { s with status := { s.status with dropped := true } }) ∧
    (s.fsm = .idle → (∀ i, decode w ≠ .ok i) →
      step (s.hostWrites 0x18 w) =
        .next { s with status := { busy := false, done := true, err := true, dropped := false, errcode := .illegalCmd } }) ∧
    (∀ i, s.fsm = .idle → decode w = .ok i → i ≠ .gcd → s.opm = 0 →
      step (s.hostWrites 0x18 w) =
        .next { s with status := { busy := false, done := true, err := true, dropped := false, errcode := .modZero } }) ∧
    (∀ i, s.fsm = .idle → decode w = .ok i → i = .gcd ∨ s.opm ≠ 0 →
      step (s.hostWrites 0x18 w) =
        .next { s with
          lat := { op := i, a := s.opa, b := s.opb, m := s.opm }
          fsm := .busy
          status := { busy := true, done := false, err := false, dropped := false, errcode := .none } })

/-- DROPPED (R204): a CMD write of any word while BUSY sets it and changes nothing else, the completion of the command in flight
keeps it, and a step that clears it is a CMD write made while IDLE or a reset. -/
def Obligations.DroppedIsStickyUntilProcessed : Prop :=
  (∀ (s : State) (w : Word), s.fsm = .busy →
    step (s.hostWrites 0x18 w) = .next { s with status := { s.status with dropped := true } }) ∧
  (∀ s t : State, EngineNext s → step s = .next t → t.status.dropped = s.status.dropped) ∧
  (∀ s t : State, step s = .next t → s.status.dropped = true → t.status.dropped = false →
    (s.fsm = .idle ∧ ∃ w, WritesNext s 0x18 w) ∨ ResetsNext s)

/-- ILLEGAL_CMD (R202): from IDLE, a word with a bit of 63:4 set or OPCODE 0 or 6 to 15 rewrites STATUS to 0x16 and changes nothing
else, whatever OPA, OPB and OPM hold. -/
def Obligations.IllegalWordReportsIllegalCmd : Prop :=
  ∀ (s : State) (w : Word), s.fsm = .idle →
    (w.extractLsb' 4 60 ≠ 0 ∨ w.extractLsb' 0 4 = 0 ∨ 6 ≤ (w.extractLsb' 0 4).toNat) →
    ∃ st : Status, step (s.hostWrites 0x18 w) = .next { s with status := st } ∧
      st = { busy := false, done := true, err := true, dropped := false, errcode := .illegalCmd } ∧ statusWord st = 0x16

/-- MOD_ZERO (R203): from IDLE with OPM = 0, the four modular commands rewrite STATUS to 0x26 and change nothing else, whatever OPA
and OPB hold; with OPM ≠ 0 they do not report it, and GCD never does. -/
def Obligations.ZeroModulusReportsModZero : Prop :=
  ∀ (s : State) (i : Instr), s.fsm = .idle →
    (i ≠ .gcd → s.opm = 0 → ∃ st : Status, exec i s = .next { s with status := st } ∧
      st = { busy := false, done := true, err := true, dropped := false, errcode := .modZero } ∧ statusWord st = 0x26) ∧
    (i ≠ .gcd → s.opm ≠ 0 → ∃ t, exec i s = .next t ∧ t.status.errcode = .none) ∧
    (∃ t, exec .gcd s = .next t ∧ t.status.errcode = .none)

/-- An error leaves the block IDLE with RESULT, the operands and the latch unchanged, and no completion follows it: an ENGINE turn
changes nothing, and the very next STATUS read shows it (R201). -/
def Obligations.ErrorChangesOnlyStatus : Prop :=
  ∀ (s t : State) (w : Word), s.fsm = .idle → step (s.hostWrites 0x18 w) = .next t → t.status.err = true →
    t = { s with status := t.status } ∧ t.status.busy = false ∧ t.status.done = true ∧ t.status.dropped = false ∧
    t.status.errcode ≠ .none ∧ step (t.nextMove .engine) = .next t ∧
    step (t.hostReads 0x20) = .next { t with replies := statusWord t.status :: t.replies }

/-- Before the CMD write, the operands last written are the ones latched: three operand writes and a CMD write in arrival order
latch exactly the written values, whatever the state was before (R61 item 1). -/
def Obligations.CommandLatchesOperandsWrittenBefore : Prop :=
  ∀ (s : State) (i : Instr) (a b m : Word), s.fsm = .idle → m ≠ 0 →
    ∃ t, runSteps 4
        { s with agenda :=
          [.host (.write (64 * s.windowPage) 8 a), .host (.write (64 * s.windowPage + 0x08) 8 b),
           .host (.write (64 * s.windowPage + 0x10) 8 m), .host (.write (64 * s.windowPage + 0x18) 8 (encode i))] ++ s.agenda } =
        .next t ∧
      t.lat = { op := i, a := a, b := b, m := m } ∧ t.fsm = .busy ∧ t.result = s.result ∧ t.agenda = s.agenda

/-! ### The five commands: the CMD write and the completion -/

/-- MODADD (R105): its word; MOD_ZERO at once when OPM = 0; otherwise the CMD write is accepted and the ENGINE's step writes
(OPA + OPB) mod OPM, exact for every operand, and STATUS, and nothing else. -/
def Obligations.ModaddCommand : Prop :=
  encode .modadd = 0x0000_0000_0000_0001#64 ∧ decode 0x0000_0000_0000_0001#64 = .ok .modadd ∧
  ∀ s : State, s.fsm = .idle →
    (s.opm = 0 → exec .modadd s = .next (modZeroState s)) ∧
    (s.opm ≠ 0 → exec .modadd s = .next (acceptedState .modadd s) ∧
      ∃ r : Word, r.toNat = (s.opa.toNat + s.opb.toNat) % s.opm.toNat ∧ r.toNat < s.opm.toNat ∧
        step ((acceptedState .modadd s).nextMove .engine) = .next (completedState r (acceptedState .modadd s)))

/-- MODMUL (R126): its word; MOD_ZERO at once when OPM = 0; otherwise the CMD write is accepted and the ENGINE's step writes
(OPA * OPB) mod OPM, exact for every operand, and STATUS, and nothing else. -/
def Obligations.ModmulCommand : Prop :=
  encode .modmul = 0x0000_0000_0000_0002#64 ∧ decode 0x0000_0000_0000_0002#64 = .ok .modmul ∧
  ∀ s : State, s.fsm = .idle →
    (s.opm = 0 → exec .modmul s = .next (modZeroState s)) ∧
    (s.opm ≠ 0 → exec .modmul s = .next (acceptedState .modmul s) ∧
      ∃ r : Word, r.toNat = (s.opa.toNat * s.opb.toNat) % s.opm.toNat ∧ r.toNat < s.opm.toNat ∧
        step ((acceptedState .modmul s).nextMove .engine) = .next (completedState r (acceptedState .modmul s)))

/-- MODPOW (R145): its word; MOD_ZERO at once when OPM = 0; otherwise the CMD write is accepted and the ENGINE's step writes
OPA ^ OPB mod OPM, with x ^ 0 = 1, exact for every operand, and STATUS, and nothing else. -/
def Obligations.ModpowCommand : Prop :=
  encode .modpow = 0x0000_0000_0000_0003#64 ∧ decode 0x0000_0000_0000_0003#64 = .ok .modpow ∧
  ∀ s : State, s.fsm = .idle →
    (s.opm = 0 → exec .modpow s = .next (modZeroState s)) ∧
    (s.opm ≠ 0 → exec .modpow s = .next (acceptedState .modpow s) ∧
      ∃ r : Word, r.toNat = (s.opa.toNat ^ s.opb.toNat) % s.opm.toNat ∧ r.toNat < s.opm.toNat ∧
        step ((acceptedState .modpow s).nextMove .engine) = .next (completedState r (acceptedState .modpow s)))

/-- GCD (R165): its word; always accepted when IDLE, OPM = 0 included; the ENGINE's step writes gcd(OPA, OPB), with gcd(0, 0) = 0,
and STATUS, and nothing else, and OPM does not change the value. -/
def Obligations.GcdCommand : Prop :=
  encode .gcd = 0x0000_0000_0000_0004#64 ∧ decode 0x0000_0000_0000_0004#64 = .ok .gcd ∧
  ∀ s : State, s.fsm = .idle →
    exec .gcd s = .next (acceptedState .gcd s) ∧
    ∃ r : Word, r.toNat = Nat.gcd s.opa.toNat s.opb.toNat ∧
      step ((acceptedState .gcd s).nextMove .engine) = .next (completedState r (acceptedState .gcd s)) ∧
      ∀ m : Word, ∃ t, exec .gcd { s with opm := m } = .next t ∧
        step (t.nextMove .engine) = .next (completedState r t)

/-- MODINV (R185): its word; MOD_ZERO at once when OPM = 0; otherwise the CMD write is accepted and, when OPA and OPM are coprime,
the ENGINE's step writes the one d in [0, OPM) with (d * OPA) mod OPM = 1 mod OPM, which is 0 for OPM = 1, and STATUS, and nothing
else, whatever OPB holds. When they are not coprime the ENGINE's step completes with no error and some RESULT, a free draw; that the
draw's number is used up is the model's (log 6). -/
def Obligations.ModinvCommand : Prop :=
  encode .modinv = 0x0000_0000_0000_0005#64 ∧ decode 0x0000_0000_0000_0005#64 = .ok .modinv ∧
  ∀ s : State, s.fsm = .idle →
    (s.opm = 0 → exec .modinv s = .next (modZeroState s)) ∧
    (s.opm ≠ 0 → exec .modinv s = .next (acceptedState .modinv s)) ∧
    (s.opm ≠ 0 → Nat.gcd s.opa.toNat s.opm.toNat = 1 →
      ∃ r : Word, r.toNat < s.opm.toNat ∧ (r.toNat * s.opa.toNat) % s.opm.toNat = 1 % s.opm.toNat ∧
        (∀ d : Nat, d < s.opm.toNat → (d * s.opa.toNat) % s.opm.toNat = 1 % s.opm.toNat → d = r.toNat) ∧
        (s.opm = 1 → r = 0) ∧
        step ((acceptedState .modinv s).nextMove .engine) = .next (completedState r (acceptedState .modinv s)) ∧
        ∀ b : Word, ∃ t, exec .modinv { s with opb := b } = .next t ∧
          step (t.nextMove .engine) = .next (completedState r t)) ∧
    (s.opm ≠ 0 → Nat.gcd s.opa.toNat s.opm.toNat ≠ 1 →
      ∃ (r : Word) (d : Nat), step ((acceptedState .modinv s).nextMove .engine) =
        .next { completedState r (acceptedState .modinv s) with draws := d })

/-- MODINV on a pair that is not coprime completes normally (R182), from every state in which it is in flight, whatever was dropped
meanwhile: DONE = 1 with ERR = 0, some 64-bit RESULT, and nothing else of the block changed.
The value is a free draw, so nothing more is said of it; that the draw's number is used up is the model's (log 6). OPA = 0 with OPM
of at least 2, and OPA = 65537 with OPM = 2^64 - 1, are such pairs. -/
def Obligations.ModinvOnNonCoprimeOperandsCompletes : Prop :=
  (∀ s : State, s.fsm = .busy → s.lat.op = .modinv → s.lat.m ≠ 0 → Nat.gcd s.lat.a.toNat s.lat.m.toNat ≠ 1 → Inv s →
    ∃ (r : Word) (d : Nat), step (s.nextMove .engine) =
      .next { s with
        result := r
        fsm := .idle
        status := { busy := false, done := true, err := false, dropped := s.status.dropped, errcode := .none }
        draws := d }) ∧
  (∀ phi : Nat, 2 ≤ phi → Nat.gcd 0 phi ≠ 1) ∧
  Nat.gcd 65537 (2 ^ 64 - 1) ≠ 1

/-! ### The unit functions -/

/-- The modular_adder's algorithm is exact (R100): (a + b) mod m over the integers, below m, for every a, b and nonzero m. -/
def Obligations.ModadderIsExact : Prop :=
  ∀ a b m : Word, m ≠ 0 →
    (modadd64 a b m).toNat = (a.toNat + b.toNat) % m.toNat ∧ (modadd64 a b m).toNat < m.toNat

/-- Laws of modadd64 (R103). -/
def Obligations.ModadderLaws : Prop :=
  ∀ a b m : Word, m ≠ 0 →
    (modadd64 a b m).toNat < m.toNat ∧
    modadd64 a b m = modadd64 b a m ∧
    modadd64 a 0 m = a % m ∧
    modadd64 a b 1 = 0 ∧
    modadd64 a b m = modadd64 (a % m) (b % m) m ∧
    (a.toNat < m.toNat → b.toNat < m.toNat →
      (modadd64 a b m).toNat =
        if a.toNat + b.toNat < m.toNat then a.toNat + b.toNat else a.toNat + b.toNat - m.toNat)

/-- On the direct path the product fits in 64 bits and the direct value is exact (R122). -/
def Obligations.DirectPathIsExact : Prop :=
  ∀ a b m : Word, a = 0 ∨ b.toNat < (2 ^ 64 - 1) / a.toNat →
    a.toNat * b.toNat < 2 ^ 64 ∧ (modmulDirect a b m).toNat = (a.toNat * b.toNat) % m.toNat ∧
    modmul64 a b m = modmulDirect a b m

/-- The two invariants of the double-and-add loop before every iteration i (R124), so that 64 iterations give (a * b) mod m. -/
def Obligations.DoubleAddLoopInvariant : Prop :=
  ∀ (a b m : Word), m ≠ 0 →
    (∀ i : Nat, i ≤ 64 →
      (doubleAddLoop a b m i).1.toNat = (a.toNat * (b.toNat % 2 ^ i)) % m.toNat ∧
      (doubleAddLoop a b m i).2.toNat = (a.toNat * 2 ^ i) % m.toNat) ∧
    (modmulDoubleAdd a b m).toNat = (a.toNat * b.toNat) % m.toNat

/-- The modular_multiplier is exact on either path (R120), and the path taken does not change the value (R121). -/
def Obligations.MultiplierIsExact : Prop :=
  ∀ a b m : Word, m ≠ 0 →
    (modmul64 a b m).toNat = (a.toNat * b.toNat) % m.toNat ∧ (modmul64 a b m).toNat < m.toNat ∧
    modmulDoubleAdd a b m = modmul64 a b m

/-- Laws of modmul64 (R125). -/
def Obligations.MultiplierLaws : Prop :=
  ∀ a b m : Word, m ≠ 0 →
    modmul64 a b m = modmul64 b a m ∧
    modmul64 0 b m = 0 ∧ modmul64 a 0 m = 0 ∧
    modmul64 a 1 m = a % m ∧
    modmul64 a b 1 = 0 ∧
    modmul64 a b m = modmul64 (a % m) (b % m) m

/-- The two invariants of square-and-multiply before every iteration i (R143), so that 64 iterations give x ^ e mod m, in [0, m), with x ^ 0 = 1 (R140). -/
def Obligations.SquareMultiplyLoopInvariant : Prop :=
  ∀ (x e m : Word), m ≠ 0 →
    (∀ i : Nat, i ≤ 64 →
      (squareMultiplyLoop x e m i).1.toNat = (x.toNat ^ (e.toNat % 2 ^ i)) % m.toNat ∧
      (squareMultiplyLoop x e m i).2.toNat = (x.toNat ^ (2 ^ i)) % m.toNat) ∧
    (modpow64 x e m).toNat = (x.toNat ^ e.toNat) % m.toNat ∧ (modpow64 x e m).toNat < m.toNat

/-- Laws of modpow64 (R144), the zero exponent's 1 mod m among them. -/
def Obligations.ExponentiationLaws : Prop :=
  ∀ x e m : Word, m ≠ 0 →
    (modpow64 x e m).toNat < m.toNat ∧
    modpow64 x 0 m = 1 % m ∧
    modpow64 x 1 m = x % m ∧
    (1 ≤ e.toNat → modpow64 0 e m = 0) ∧
    modpow64 x e 1 = 0 ∧
    modpow64 x e m = modpow64 (x % m) e m ∧
    (∀ e2 : Word, e.toNat + e2.toNat < 2 ^ 64 →
      modpow64 x (e + e2) m = modmul64 (modpow64 x e m) (modpow64 x e2 m) m)

/-- gcd64 is the source's recursion and its value is the greatest common divisor, at most the larger operand (R160). -/
def Obligations.GcdUnitIsTheRecursion : Prop :=
  ∀ a b : Word,
    gcd64 a b = (if a = 0 then b else gcd64 (b % a) a) ∧
    (gcd64 a b).toNat = Nat.gcd a.toNat b.toNat ∧
    (gcd64 a b).toNat ≤ max a.toNat b.toNat

/-- Laws of gcd64 (R163). -/
def Obligations.GcdLaws : Prop :=
  ∀ a b : Word,
    gcd64 a b = gcd64 b a ∧
    gcd64 a 0 = a ∧ gcd64 0 b = b ∧
    gcd64 0 0 = 0 ∧
    gcd64 a a = a ∧
    gcd64 1 b = 1 ∧
    (gcd64 a b ≠ 0 → (gcd64 a b).toNat ∣ a.toNat ∧ (gcd64 a b).toNat ∣ b.toNat) ∧
    (gcd64 a b = 1 ↔ Nat.Coprime a.toNat b.toNat)

/-- The Euclidean loop ends within 93 iterations for all 64-bit operands (R162): more fuel than 93 changes nothing, and neither does
the model's own fuel (log 13). -/
def Obligations.EuclidLoopEndsWithin93 : Prop :=
  ∀ (a b : Word) (n : Nat), 93 ≤ n → gcdLoop n a b = gcdLoop 93 a b ∧ gcdLoop n a b = gcd64 a b

/-- The modular_inverse_unit (R180, R183): it finds a value exactly when e and phi are coprime, and that value is the one d in
[0, phi) with (d * e) mod phi = 1 mod phi. -/
def Obligations.InverseUnitFindsTheInverse : Prop :=
  ∀ e phi : Word, phi ≠ 0 →
    ((∃ d, modinvFound e phi = some d) ↔ Nat.gcd e.toNat phi.toNat = 1) ∧
    (∀ d, modinvFound e phi = some d →
      d.toNat < phi.toNat ∧ (d.toNat * e.toNat) % phi.toNat = 1 % phi.toNat ∧
      ∀ d' : Nat, d' < phi.toNat → (d' * e.toNat) % phi.toNat = 1 % phi.toNat → d' = d.toNat)

/-- The inverse depends only on e mod phi, phi = 1 gives 0, e = 1 gives 1 mod phi and e = phi - 1 gives phi - 1
for phi of at least 2 (R181, R184, R185). -/
def Obligations.InverseUnitCornerCases : Prop :=
  ∀ e phi : Word, phi ≠ 0 →
    modinvFound e phi = modinvFound (e % phi) phi ∧
    modinvFound e 1 = some 0 ∧
    (2 ≤ phi.toNat → modinvFound 1 phi = some 1 ∧ modinvFound (phi - 1) phi = some (phi - 1)) ∧
    (2 ≤ phi.toNat → modinvFound 0 phi = none)

/-! ### Frames and whole-machine rules -/

/-- The frame of every command's CMD write: the operands, RESULT and the model's own fields are unchanged whenever exec gives a next
state, and so is a host read of every offset but STATUS; while BUSY only DROPPED changes, and on an error only STATUS. -/
def Obligations.CmdWriteFrame : Prop :=
  ∀ (i : Instr) (s t : State), exec i s = .next t →
    t.opa = s.opa ∧ t.opb = s.opb ∧ t.opm = s.opm ∧ t.result = s.result ∧
    t.windowPage = s.windowPage ∧ t.agenda = s.agenda ∧ t.replies = s.replies ∧ t.draws = s.draws ∧
    (∀ off, off ≠ 0x20 → readReg (regAt off) t = readReg (regAt off) s) ∧
    (s.fsm = .busy → t = { s with status := { s.status with dropped := true } }) ∧
    (t.status.err = true → s.fsm = .idle → t = { s with status := t.status })

/-- The frame of every command's completion: only RESULT, fsm, BUSY and DONE change (and the model's draw number): the operands, the
latch, ERR, ERRCODE and DROPPED are kept (R33, R38), as is a host read of every offset but STATUS and RESULT. -/
def Obligations.CompletionFrame : Prop :=
  ∀ s t : State, EngineNext s → step s = .next t →
    t.opa = s.opa ∧ t.opb = s.opb ∧ t.opm = s.opm ∧ t.lat = s.lat ∧
    t.status.err = s.status.err ∧ t.status.errcode = s.status.errcode ∧ t.status.dropped = s.status.dropped ∧
    t.windowPage = s.windowPage ∧ t.replies = s.replies ∧
    (∀ off, off ≠ 0x20 → off ≠ 0x28 → readReg (regAt off) t = readReg (regAt off) s) ∧
    (s.fsm = .busy → t.fsm = .idle ∧ t.status.busy = false ∧ t.status.done = true) ∧
    (s.fsm = .idle → t = { s with agenda := s.agenda.tail })

/-- RESULT changes only by a completion or by reset (R27; that reset puts 0 there is R230 and R231, log 17): no failed or dropped
command, and no other access, changes it. -/
def Obligations.ResultChangesOnlyByCompletionOrReset : Prop :=
  ∀ s t : State, step s = .next t → t.result ≠ s.result → (s.fsm = .busy ∧ EngineNext s) ∨ ResetsNext s

/-- ERR and ERRCODE change only by a CMD write made while IDLE, or by reset (R207). -/
def Obligations.OutcomeStaysUntilProcessedCmdWrite : Prop :=
  ∀ s t : State, step s = .next t → (t.status.err, t.status.errcode) ≠ (s.status.err, s.status.errcode) →
    (s.fsm = .idle ∧ ∃ w, WritesNext s 0x18 w) ∨ ResetsNext s

/-- The operand registers keep their values until the host writes them or reset comes (R38): no command clears a secret. -/
def Obligations.OperandsChangeOnlyByTheirWrites : Prop :=
  ∀ s t : State, step s = .next t →
    (t.opa ≠ s.opa → (∃ v, WritesNext s 0x00 v) ∨ ResetsNext s) ∧
    (t.opb ≠ s.opb → (∃ v, WritesNext s 0x08 v) ∨ ResetsNext s) ∧
    (t.opm ≠ s.opm → (∃ v, WritesNext s 0x10 v) ∨ ResetsNext s)

/-- The latch is written only by an acceptance, which writes all four of its parts, or by reset (R30). -/
def Obligations.LatchWrittenOnlyByAcceptance : Prop :=
  ∀ s t : State, step s = .next t → t.lat ≠ s.lat →
    (s.fsm = .idle ∧ t.fsm = .busy ∧ ∃ i, WritesNext s 0x18 (encode i) ∧
      t.lat = { op := i, a := s.opa, b := s.opb, m := s.opm }) ∨
    ResetsNext s

/-- BUSY is entered only by an acceptance and left only by completion or reset (R31): no host access cancels a command (R225). -/
def Obligations.BusyEnteredAndLeftAsStated : Prop :=
  ∀ s t : State, step s = .next t →
    (s.fsm = .idle → t.fsm = .busy → ∃ i, WritesNext s 0x18 (encode i)) ∧
    (s.fsm = .busy → t.fsm = .idle → EngineNext s ∨ ResetsNext s)

/-- BUSY = 0 with DONE = 0 comes only of reset (R26, its last item): once a command has been processed, every step but the RESET
move leaves BUSY or DONE set, and every processed CMD write sets one of them. -/
def Obligations.NeitherBusyNorDoneOnlyAfterReset : Prop :=
  (∀ s t : State, step s = .next t → ¬ ResetsNext s → s.status.busy = true ∨ s.status.done = true →
    t.status.busy = true ∨ t.status.done = true) ∧
  (∀ s t : State, step s = .next t → s.fsm = .idle → (∃ w, WritesNext s 0x18 w) →
    t.status.busy = true ∨ t.status.done = true)

/-- A step takes exactly the first move of the agenda, never writes the window's address, and returns at most one read word. The
three fields spoken of are the MODEL'S OWN, so this states its choices: the agenda as the interleaving of R60 (log 1), the window
page as MODCORE_BASE of R51 (log 7), and the replies as what the host has read, kept through RESET (log 8). -/
def Obligations.StepTakesOneMove : Prop :=
  ∀ s t : State, step s = .next t →
    t.agenda = s.agenda.tail ∧ t.windowPage = s.windowPage ∧
    (t.replies = s.replies ∨
      ∃ off, s.agenda.head? = some (.host (.read (64 * s.windowPage + off) 8)) ∧ t.replies = readReg (regAt off) s :: s.replies)

/-! ### The step -/

/-- When the host's next access is a CMD write of a word that decodes to i, the step is exec i at that state when IDLE; while BUSY
the write is dropped. The word given to withFetchWord is such a write. -/
def Obligations.StepRunsTheDecodedCommand : Prop :=
  ∀ (s : State) (w : Word) (i : Instr), decode w = .ok i →
    (s.fsm = .idle → step (s.hostWrites 0x18 w) = exec i s) ∧
    (s.fsm = .idle → step (s.withFetchWord 64 w.toNat) = exec i s) ∧
    (s.fsm = .busy → step (s.hostWrites 0x18 w) = .next { s with status := { s.status with dropped := true } })

/-- The ENGINE's turn is the completion of the latched command exactly when BUSY, and nothing while IDLE (R33). That with no move
left a BUSY engine completes and an IDLE block does nothing is the MODEL'S CHOICE of a fair schedule (log 2; R223, R245). -/
def Obligations.EngineTurnIsCompletion : Prop :=
  ∀ s : State,
    (s.fsm = .busy → step (s.nextMove .engine) = .next (complete s)) ∧
    (s.fsm = .idle → step (s.nextMove .engine) = .next s) ∧
    (s.agenda = [] → s.fsm = .busy → step s = .next (complete s)) ∧
    (s.agenda = [] → s.fsm = .idle → step s = .next s)

/-! ### Invariants, isolation, progress -/

/-- The invariants hold at reset. -/
def Obligations.InvariantsHoldAtReset : Prop :=
  Inv State.reset ∧ ResultOk State.reset ∧ SafeAgenda State.reset

/-- The STATUS invariants of R26, BUSY = (fsm = BUSY) of R31 and the nonzero latched modulus of R33 are kept by every step, from
every state that has them. -/
def Obligations.EveryStepKeepsTheStatusInvariants : Prop :=
  ∀ s t : State, Inv s → step s = .next t → Inv t

/-- Every step keeps: whenever DONE = 1 and ERR = 0, RESULT is the exact mathematical result of the last accepted command on the
operands it latched (R61 item 3, R241), whatever host accesses, drops and errors came between. -/
def Obligations.DoneResultIsTheLatchedCommandsResult : Prop :=
  ∀ s t : State, Inv s → ResultOk s → step s = .next t → ResultOk t

/-- Host accesses, however many and whichever (operand writes, CMD writes, reads), leave a command in flight as it is (R30, R243,
R61 item 2): still BUSY, the same latch and RESULT. The ENGINE's next turn then completes that latch. -/
def Obligations.HostAccessesDoNotDisturbTheCommandInFlight : Prop :=
  ∀ (accesses : List Access) (rest : List Move) (s : State), s.fsm = .busy → (∀ a ∈ accesses, Supported s a) →
    ∃ t, runSteps accesses.length { s with agenda := accesses.map Move.host ++ .engine :: rest } = .next t ∧
      t.fsm = .busy ∧ t.lat = s.lat ∧ t.result = s.result ∧
      ∃ u, step t = .next u ∧ u.fsm = .idle ∧ u.status.done = true ∧ (LatchOk s → IsResultOf s.lat u.result)

/-- The latch cannot be observed while IDLE (R30, R39): two states that differ only in an idle latch stay so, or become equal, at
every step, and stop alike. -/
def Obligations.IdleLatchCannotBeObserved : Prop :=
  ∀ s s' : State, EqualButIdleLatch s s' → OutcomesAgree EqualButIdleLatch (step s) (step s')

/-- A started command completes unless reset comes first (R245): from a BUSY state whose coming accesses are supported, the block is
IDLE after at most one step more than the agenda is long; and when no RESET is among the coming moves, DONE is then 1 and RESULT is a
result of the latched command, with ERR = 0 from a state that meets the invariants. The fair schedule and the bound are the MODEL'S
CHOICE of a finite agenda (logs 1 and 2), not the spec's, which has no time. -/
def Obligations.StartedCommandEventuallyCompletes : Prop :=
  ∀ s : State, s.fsm = .busy → SafeAgenda s →
    ∃ k t, k ≤ s.agenda.length + 1 ∧ runSteps k s = .next t ∧ t.fsm = .idle ∧
      (Move.reset ∉ s.agenda →
        t.status.done = true ∧ t.lat = s.lat ∧
        (Inv s → t.status.err = false ∧ IsResultOf s.lat t.result))

/-! ### Host script notation -/

open Sys2Proof.Machine.Script in
/-- The expansions of the five pseudo-instructions, line by line (R88). -/
def Obligations.PseudoInstructionExpansions : Prop :=
  ∀ (t : Fin 16) (a b m : Operand),
    expand (.modadd t a b m) = [.write .opa a, .write .opb b, .write .opm m, .cmd .modadd, .poll 15, .read .result t] ∧
    expand (.modmul t a b m) = [.write .opa a, .write .opb b, .write .opm m, .cmd .modmul, .poll 15, .read .result t] ∧
    expand (.modpow t a b m) = [.write .opa a, .write .opb b, .write .opm m, .cmd .modpow, .poll 15, .read .result t] ∧
    expand (.gcd t a b) = [.write .opa a, .write .opb b, .cmd .gcd, .poll 15, .read .result t] ∧
    expand (.modinv t a m) = [.write .opa a, .write .opm m, .cmd .modinv, .poll 15, .read .result t]

open Sys2Proof.Machine.Script in
/-- The W, R, CMD and POLL lines of R87 are the bus accesses it gives: W of a constant or a temporary, CMD of a mnemonic and CMD of a
literal word are one 64-bit write, R and POLL one 64-bit read into a temporary, and POLL goes on to the next line exactly when the
STATUS word it read has bit 0 = 0. One line a turn, and one STATUS read a POLL turn, are the MODEL'S CHOICE (log 16). -/
def Obligations.ScriptLinesAreBusAccesses : Prop :=
  ∀ (script : List Line) (h : HostState) (s : State), h.halted = false →
    (∀ r v, script[h.line]? = some (.write r v) →
      step (h.block.hostWrites (regOffset r) (operandValue h.temps v)) = .next s →
      hostTurn script h = .next { h with block := s, line := h.line + 1 }) ∧
    (∀ i, script[h.line]? = some (.cmd i) → step (h.block.hostWrites 0x18 (encode i)) = .next s →
      hostTurn script h = .next { h with block := s, line := h.line + 1 }) ∧
    (∀ w, script[h.line]? = some (.cmdWord w) → step (h.block.hostWrites 0x18 w) = .next s →
      hostTurn script h = .next { h with block := s, line := h.line + 1 }) ∧
    (∀ r t, script[h.line]? = some (.read r t) → step (h.block.hostReads (regOffset r)) = .next s →
      hostTurn script h =
        .next { h with block := s, temps := h.temps.set t (readReg (some r) h.block), line := h.line + 1 }) ∧
    (∀ t, script[h.line]? = some (.poll t) → step (h.block.hostReads 0x20) = .next s →
      hostTurn script h =
        .next { h with
          block := s
          temps := h.temps.set t (statusWord h.block.status)
          line := if h.block.status.busy = true then h.line else h.line + 1 })

open Sys2Proof.Machine.Script in
/-- An assignment line with an operator of R9 on two operands x and y sets its temporary to the value R9 states, goes on to the next
line, and changes nothing else, no free value being drawn. `runs e r` says so of the expression e and the value r. `div` is shown by a
negative divisor too, where floor rounds down: -(u div -v) is u / v rounded up. Where R9 states no value, see
HostControlLineOutcomes. -/
def Obligations.HostArithmeticGivesTheStatedValues : Prop :=
  ∀ (script : List Line) (h : HostState) (t : Fin 16) (x y : Operand) (bits : Nat), h.halted = false →
    let u := (operandValue h.temps x).toNat
    let v := (operandValue h.temps y).toNat
    let runs := fun (e : Expr) (r : Nat) => script[h.line]? = some (.assign t e) →
      hostTurn script h = .next { h with temps := h.temps.set t (BitVec.ofNat 64 r), line := h.line + 1 }
    runs (.arg x) u ∧
    (u + v < 2 ^ 64 → runs (.add (.arg x) (.arg y)) (u + v)) ∧
    (v ≤ u → runs (.sub (.arg x) (.arg y)) (u - v)) ∧
    (u * v < 2 ^ 64 → runs (.mul (.arg x) (.arg y)) (u * v)) ∧
    (v ≠ 0 → runs (.div (.arg x) (.arg y)) (u / v)) ∧
    (v ≠ 0 → runs (.div (.sub (.lit 0) (.arg x)) (.sub (.lit 0) (.arg y))) (u / v)) ∧
    (v ≠ 0 → runs (.sub (.lit 0) (.div (.arg x) (.sub (.lit 0) (.arg y)))) ((u + v - 1) / v)) ∧
    (v ≠ 0 → runs (.mod (.arg x) (.arg y)) (u % v)) ∧
    runs (.add64 (.arg x) (.arg y)) ((u + v) % 2 ^ 64) ∧
    runs (.carry64 (.arg x) (.arg y)) (if 2 ^ 64 ≤ u + v then 1 else 0) ∧
    runs (.sub64 (.arg x) (.arg y)) ((2 ^ 64 + u - v) % 2 ^ 64) ∧
    runs (.gcd (.arg x) (.arg y)) (Nat.gcd u v) ∧
    (u < 2 ^ bits → runs (.zext bits (.arg x)) u)

open Sys2Proof.Machine.Script in
/-- The outcomes of the lines of R87 that make no bus access: an assignment sets its temporary to some word and goes to the next
line, a branch goes to its label's line or the next, and nothing else changes but the count of the host's own free values; a branch
on two operands goes to the label exactly when their comparison holds. No value stops a line: where R9 states no result the word or
the branch taken is a free choice, the MODEL'S form of an unstated value (log 21). Three things R87 does not say are the MODEL'S
CHOICE (log 16): where a label stands, that a jump to a label the script does not hold is refused, and that a script that has run
past its last line has ended, as at HALT. -/
def Obligations.HostControlLineOutcomes : Prop :=
  ∀ (script : List Line) (h : HostState), h.halted = false →
    (∀ t e, script[h.line]? = some (.assign t e) → ∃ (w : Word) (d : Nat),
      hostTurn script h = .next { h with temps := h.temps.set t w, line := h.line + 1, draws := d }) ∧
    (∀ c name n, script[h.line]? = some (.ifGoto c name) → labelLine script name = some n →
      ∃ d, hostTurn script h = .next { h with line := n, draws := d } ∨
        hostTurn script h = .next { h with line := h.line + 1, draws := d }) ∧
    (∀ x y name n, labelLine script name = some n →
      let u := operandValue h.temps x
      let v := operandValue h.temps y
      let branches := fun (c : Cond) (holds : Prop) => script[h.line]? = some (.ifGoto c name) →
        (holds → hostTurn script h = .next { h with line := n }) ∧
        (¬ holds → hostTurn script h = .next { h with line := h.line + 1 })
      branches (.eq (.arg x) (.arg y)) (u = v) ∧ branches (.ne (.arg x) (.arg y)) (u ≠ v) ∧
      branches (.lt (.arg x) (.arg y)) (u.toNat < v.toNat) ∧ branches (.ge (.arg x) (.arg y)) (v.toNat ≤ u.toNat)) ∧
    (∀ name n, script[h.line]? = some (.goto name) → labelLine script name = some n →
      hostTurn script h = .next { h with line := n }) ∧
    (∀ c name, script[h.line]? = some (.ifGoto c name) → labelLine script name = none →
      hostTurn script h = .refused (.scriptLabel h.line) ∨
        ∃ d, hostTurn script h = .next { h with line := h.line + 1, draws := d }) ∧
    (∀ name, script[h.line]? = some (.goto name) → labelLine script name = none →
      hostTurn script h = .refused (.scriptLabel h.line)) ∧
    (∀ name, script[h.line]? = some (.label name) → hostTurn script h = .next { h with line := h.line + 1 }) ∧
    (script[h.line]? = some .halt ∨ script[h.line]? = none → hostTurn script h = .next { h with halted := true })
end

