-- ==== Sys2Proof/Laws/State.lean ====
section
/-! SUPPORT. What each shared update of the state leaves in each field: one lemma per field per update, true by rfl, so that no
later proof unfolds a record update. -/

namespace Sys2Proof.Machine

/-! `dropCommand` -/

@[simp] theorem dropCommand_opa (s : State) : (dropCommand s).opa = s.opa := rfl
@[simp] theorem dropCommand_opb (s : State) : (dropCommand s).opb = s.opb := rfl
@[simp] theorem dropCommand_opm (s : State) : (dropCommand s).opm = s.opm := rfl
@[simp] theorem dropCommand_result (s : State) : (dropCommand s).result = s.result := rfl
@[simp] theorem dropCommand_status (s : State) : (dropCommand s).status = statusDropped s.status := rfl
@[simp] theorem dropCommand_fsm (s : State) : (dropCommand s).fsm = s.fsm := rfl
@[simp] theorem dropCommand_lat (s : State) : (dropCommand s).lat = s.lat := rfl
@[simp] theorem dropCommand_windowPage (s : State) : (dropCommand s).windowPage = s.windowPage := rfl
@[simp] theorem dropCommand_agenda (s : State) : (dropCommand s).agenda = s.agenda := rfl
@[simp] theorem dropCommand_replies (s : State) : (dropCommand s).replies = s.replies := rfl
@[simp] theorem dropCommand_draws (s : State) : (dropCommand s).draws = s.draws := rfl

/-! `raiseError` -/

@[simp] theorem raiseError_opa (c : ErrCode) (s : State) : (raiseError c s).opa = s.opa := rfl
@[simp] theorem raiseError_opb (c : ErrCode) (s : State) : (raiseError c s).opb = s.opb := rfl
@[simp] theorem raiseError_opm (c : ErrCode) (s : State) : (raiseError c s).opm = s.opm := rfl
@[simp] theorem raiseError_result (c : ErrCode) (s : State) : (raiseError c s).result = s.result := rfl
@[simp] theorem raiseError_status (c : ErrCode) (s : State) : (raiseError c s).status = statusError c := rfl
@[simp] theorem raiseError_fsm (c : ErrCode) (s : State) : (raiseError c s).fsm = s.fsm := rfl
@[simp] theorem raiseError_lat (c : ErrCode) (s : State) : (raiseError c s).lat = s.lat := rfl
@[simp] theorem raiseError_windowPage (c : ErrCode) (s : State) : (raiseError c s).windowPage = s.windowPage := rfl
@[simp] theorem raiseError_agenda (c : ErrCode) (s : State) : (raiseError c s).agenda = s.agenda := rfl
@[simp] theorem raiseError_replies (c : ErrCode) (s : State) : (raiseError c s).replies = s.replies := rfl
@[simp] theorem raiseError_draws (c : ErrCode) (s : State) : (raiseError c s).draws = s.draws := rfl

/-! `accept` -/

@[simp] theorem accept_opa (i : Instr) (s : State) : (accept i s).opa = s.opa := rfl
@[simp] theorem accept_opb (i : Instr) (s : State) : (accept i s).opb = s.opb := rfl
@[simp] theorem accept_opm (i : Instr) (s : State) : (accept i s).opm = s.opm := rfl
@[simp] theorem accept_result (i : Instr) (s : State) : (accept i s).result = s.result := rfl
@[simp] theorem accept_status (i : Instr) (s : State) : (accept i s).status = statusAccepted := rfl
@[simp] theorem accept_fsm (i : Instr) (s : State) : (accept i s).fsm = .busy := rfl
@[simp] theorem accept_lat (i : Instr) (s : State) : (accept i s).lat = capture i s := rfl
@[simp] theorem accept_windowPage (i : Instr) (s : State) : (accept i s).windowPage = s.windowPage := rfl
@[simp] theorem accept_agenda (i : Instr) (s : State) : (accept i s).agenda = s.agenda := rfl
@[simp] theorem accept_replies (i : Instr) (s : State) : (accept i s).replies = s.replies := rfl
@[simp] theorem accept_draws (i : Instr) (s : State) : (accept i s).draws = s.draws := rfl

/-! `finish` -/

@[simp] theorem finish_opa (r : Word) (s : State) : (finish r s).opa = s.opa := rfl
@[simp] theorem finish_opb (r : Word) (s : State) : (finish r s).opb = s.opb := rfl
@[simp] theorem finish_opm (r : Word) (s : State) : (finish r s).opm = s.opm := rfl
@[simp] theorem finish_result (r : Word) (s : State) : (finish r s).result = r := rfl
@[simp] theorem finish_status (r : Word) (s : State) : (finish r s).status = statusCompleted s.status := rfl
@[simp] theorem finish_fsm (r : Word) (s : State) : (finish r s).fsm = .idle := rfl
@[simp] theorem finish_lat (r : Word) (s : State) : (finish r s).lat = s.lat := rfl
@[simp] theorem finish_windowPage (r : Word) (s : State) : (finish r s).windowPage = s.windowPage := rfl
@[simp] theorem finish_agenda (r : Word) (s : State) : (finish r s).agenda = s.agenda := rfl
@[simp] theorem finish_replies (r : Word) (s : State) : (finish r s).replies = s.replies := rfl
@[simp] theorem finish_draws (r : Word) (s : State) : (finish r s).draws = s.draws := rfl

/-! `takeDraws` -/

@[simp] theorem takeDraws_opa (n : Nat) (s : State) : (takeDraws n s).opa = s.opa := rfl
@[simp] theorem takeDraws_opb (n : Nat) (s : State) : (takeDraws n s).opb = s.opb := rfl
@[simp] theorem takeDraws_opm (n : Nat) (s : State) : (takeDraws n s).opm = s.opm := rfl
@[simp] theorem takeDraws_result (n : Nat) (s : State) : (takeDraws n s).result = s.result := rfl
@[simp] theorem takeDraws_status (n : Nat) (s : State) : (takeDraws n s).status = s.status := rfl
@[simp] theorem takeDraws_fsm (n : Nat) (s : State) : (takeDraws n s).fsm = s.fsm := rfl
@[simp] theorem takeDraws_lat (n : Nat) (s : State) : (takeDraws n s).lat = s.lat := rfl
@[simp] theorem takeDraws_windowPage (n : Nat) (s : State) : (takeDraws n s).windowPage = s.windowPage := rfl
@[simp] theorem takeDraws_agenda (n : Nat) (s : State) : (takeDraws n s).agenda = s.agenda := rfl
@[simp] theorem takeDraws_replies (n : Nat) (s : State) : (takeDraws n s).replies = s.replies := rfl
@[simp] theorem takeDraws_draws (n : Nat) (s : State) : (takeDraws n s).draws = s.draws + n := rfl

/-! `resetBlock` -/

@[simp] theorem resetBlock_opa (s : State) : (resetBlock s).opa = 0 := rfl
@[simp] theorem resetBlock_opb (s : State) : (resetBlock s).opb = 0 := rfl
@[simp] theorem resetBlock_opm (s : State) : (resetBlock s).opm = 0 := rfl
@[simp] theorem resetBlock_result (s : State) : (resetBlock s).result = 0 := rfl
@[simp] theorem resetBlock_status (s : State) : (resetBlock s).status = statusReset := rfl
@[simp] theorem resetBlock_fsm (s : State) : (resetBlock s).fsm = .idle := rfl
@[simp] theorem resetBlock_lat (s : State) : (resetBlock s).lat = resetLatch s.draws := rfl
@[simp] theorem resetBlock_windowPage (s : State) : (resetBlock s).windowPage = s.windowPage := rfl
@[simp] theorem resetBlock_agenda (s : State) : (resetBlock s).agenda = s.agenda := rfl
@[simp] theorem resetBlock_replies (s : State) : (resetBlock s).replies = s.replies := rfl
@[simp] theorem resetBlock_draws (s : State) : (resetBlock s).draws = s.draws + 3 := rfl

/-! `nextMove` -/

@[simp] theorem State.nextMove_opa (s : State) (m : Move) : (s.nextMove m).opa = s.opa := rfl
@[simp] theorem State.nextMove_opb (s : State) (m : Move) : (s.nextMove m).opb = s.opb := rfl
@[simp] theorem State.nextMove_opm (s : State) (m : Move) : (s.nextMove m).opm = s.opm := rfl
@[simp] theorem State.nextMove_result (s : State) (m : Move) : (s.nextMove m).result = s.result := rfl
@[simp] theorem State.nextMove_status (s : State) (m : Move) : (s.nextMove m).status = s.status := rfl
@[simp] theorem State.nextMove_fsm (s : State) (m : Move) : (s.nextMove m).fsm = s.fsm := rfl
@[simp] theorem State.nextMove_lat (s : State) (m : Move) : (s.nextMove m).lat = s.lat := rfl
@[simp] theorem State.nextMove_windowPage (s : State) (m : Move) : (s.nextMove m).windowPage = s.windowPage := rfl
@[simp] theorem State.nextMove_agenda (s : State) (m : Move) : (s.nextMove m).agenda = m :: s.agenda := rfl
@[simp] theorem State.nextMove_replies (s : State) (m : Move) : (s.nextMove m).replies = s.replies := rfl
@[simp] theorem State.nextMove_draws (s : State) (m : Move) : (s.nextMove m).draws = s.draws := rfl

/-! Setting the agenda back gives the state itself. -/

@[simp] theorem State.nextMove_agenda_restored (s : State) (m : Move) :
    { s.nextMove m with agenda := s.agenda } = s := rfl

end Sys2Proof.Machine
end

