-- ==== Sys2Proof/Laws/Ops.lean ====
section
/-! SUPPORT. Everything each shared operation can do, said once: the CMD write, the completion, a host access and the step. Later
proofs cite these instead of unfolding the operations. -/

namespace Sys2Proof.Machine

/-! ### STATUS -/

@[simp] theorem statusDropped_busy (t : Status) : (statusDropped t).busy = t.busy := rfl
@[simp] theorem statusDropped_done (t : Status) : (statusDropped t).done = t.done := rfl
@[simp] theorem statusDropped_err (t : Status) : (statusDropped t).err = t.err := rfl
@[simp] theorem statusDropped_dropped (t : Status) : (statusDropped t).dropped = true := rfl
@[simp] theorem statusDropped_errcode (t : Status) : (statusDropped t).errcode = t.errcode := rfl
@[simp] theorem statusCompleted_busy (t : Status) : (statusCompleted t).busy = false := rfl
@[simp] theorem statusCompleted_done (t : Status) : (statusCompleted t).done = true := rfl
@[simp] theorem statusCompleted_err (t : Status) : (statusCompleted t).err = t.err := rfl
@[simp] theorem statusCompleted_dropped (t : Status) : (statusCompleted t).dropped = t.dropped := rfl
@[simp] theorem statusCompleted_errcode (t : Status) : (statusCompleted t).errcode = t.errcode := rfl

/-! ### The CMD write -/

theorem processed_of_busy {act : State → State} {s : State} (h : s.fsm = .busy) : processed act s = dropCommand s := by
  simp [processed, h]

theorem processed_of_idle {act : State → State} {s : State} (h : s.fsm = .idle) : processed act s = act s := by
  simp [processed, h]

theorem start_of_zero {i : Instr} {s : State} (hc : checksModulus i = true) (hm : s.opm = 0) :
    start i s = raiseError .modZero s := by
  simp [start, hc, hm]

theorem start_of_nonzero {i : Instr} {s : State} (hm : s.opm ≠ 0) : start i s = accept i s :=
  if_neg (fun h => hm h.2)

theorem start_of_unchecked {i : Instr} {s : State} (hc : checksModulus i = false) : start i s = accept i s := by
  simp [start, hc]

/-- Every arm of exec is the processing of its own command (R32). -/
theorem exec_eq (i : Instr) (s : State) : exec i s = .next (processed (start i) s) := by
  cases i <;> rfl

/-- What a command's CMD write can do (R206): dropped, MOD_ZERO or accepted. -/
theorem exec_cases {i : Instr} {s t : State} (h : exec i s = .next t) :
    (s.fsm = .busy ∧ t = dropCommand s) ∨
    (s.fsm = .idle ∧ checksModulus i = true ∧ s.opm = 0 ∧ t = raiseError .modZero s) ∨
    (s.fsm = .idle ∧ (checksModulus i = true → s.opm ≠ 0) ∧ t = accept i s) := by
  rw [exec_eq] at h
  injection h with h
  subst h
  cases hf : s.fsm with
  | busy => exact .inl ⟨rfl, processed_of_busy hf⟩
  | idle =>
    rw [processed_of_idle hf]
    by_cases hc : checksModulus i = true ∧ s.opm = 0
    · exact .inr (.inl ⟨rfl, hc.1, hc.2, if_pos hc⟩)
    · exact .inr (.inr ⟨rfl, fun h1 h2 => hc ⟨h1, h2⟩, if_neg hc⟩)

/-- A CMD write never stops, whatever the word (R86, R204). -/
theorem cmdWrite_cases (w : Word) (s : State) :
    (s.fsm = .busy ∧ cmdWrite w s = .next (dropCommand s)) ∨
    (s.fsm = .idle ∧ (∃ r, decode w = .error r) ∧ cmdWrite w s = .next (raiseError .illegalCmd s)) ∨
    (s.fsm = .idle ∧ ∃ i, decode w = .ok i ∧ cmdWrite w s = exec i s) := by
  cases hf : s.fsm with
  | busy => exact .inl ⟨rfl, by simp [cmdWrite, hf]⟩
  | idle =>
    cases hd : decode w with
    | error r => exact .inr (.inl ⟨rfl, ⟨r, rfl⟩, by simp [cmdWrite, hf, hd]⟩)
    | ok i => exact .inr (.inr ⟨rfl, i, rfl, by simp [cmdWrite, hf, hd]⟩)

/-! ### Completion -/

/-- Every completion finishes with some value, after at most some draws (R33, R182). -/
theorem complete_eq_finish (s : State) : ∃ r n, complete s = finish r (takeDraws n s) := by
  unfold complete
  split
  · exact ⟨_, 0, rfl⟩
  · exact ⟨_, 0, rfl⟩
  · exact ⟨_, 0, rfl⟩
  · exact ⟨_, 0, rfl⟩
  · unfold completeModinv
    split
    · exact ⟨_, 0, rfl⟩
    · exact ⟨_, 1, rfl⟩

theorem engineTurn_of_busy {s : State} (h : s.fsm = .busy) : engineTurn s = complete s := by
  simp [engineTurn, h]

theorem engineTurn_of_idle {s : State} (h : s.fsm = .idle) : engineTurn s = s := by
  simp [engineTurn, h]

/-! ### Host accesses -/

theorem modcoreBase_eq (s : State) : modcoreBase s = 64 * s.windowPage := rfl

theorem supportedForm_iff {addr bytes : Nat} : supportedForm addr bytes = true ↔ bytes = 8 ∧ addr % 8 = 0 :=
  decide_eq_true_iff

theorem inWindow_iff {s : State} {addr : Nat} :
    inWindow s addr = true ↔ 64 * s.windowPage ≤ addr ∧ addr < 64 * s.windowPage + 64 :=
  decide_eq_true_iff

/-- An access that is performed is one of the eight supported offsets (R52). -/
theorem atOffset_next {addr bytes : Nat} {act : Nat → State → Host.Outcome State Fault Refusal} {s t : State}
    (h : atOffset addr bytes act s = .next t) :
    ∃ off, off < 64 ∧ off % 8 = 0 ∧ addr = 64 * s.windowPage + off ∧ bytes = 8 ∧ act off s = .next t := by
  unfold atOffset at h
  split at h
  case isTrue hf =>
    split at h
    case isTrue hw =>
      rw [supportedForm_iff] at hf
      rw [inWindow_iff] at hw
      exact ⟨addr - 64 * s.windowPage, by omega, by omega, by omega, hf.1, by rwa [modcoreBase_eq] at h⟩
    case isFalse => cases h
  case isFalse => cases h

/-- At a supported offset the access goes on (R52). -/
theorem atOffset_of_supported {off : Nat} {act : Nat → State → Host.Outcome State Fault Refusal} {s : State}
    (hlt : off < 64) (hmod : off % 8 = 0) : atOffset (64 * s.windowPage + off) 8 act s = act off s := by
  have hf : supportedForm (64 * s.windowPage + off) 8 = true :=
    supportedForm_iff.mpr ⟨rfl, by omega⟩
  have hw : inWindow s (64 * s.windowPage + off) = true :=
    inWindow_iff.mpr ⟨by omega, by omega⟩
  have ho : 64 * s.windowPage + off - modcoreBase s = off := by
    rw [modcoreBase_eq]
    omega
  simp [atOffset, hf, hw, ho]

theorem hostAccess_read (addr bytes : Nat) (s : State) :
    hostAccess (.read addr bytes) s =
      atOffset addr bytes (fun off s => .next { s with replies := readReg (regAt off) s :: s.replies }) s := rfl

theorem hostAccess_write (addr bytes : Nat) (v : Word) (s : State) :
    hostAccess (.write addr bytes v) s = atOffset addr bytes (fun off s => writeReg (regAt off) v s) s := rfl

/-! ### The step -/

@[simp] theorem performMove_host (a : Access) (s : State) : performMove (.host a) s = hostAccess a s := rfl
@[simp] theorem performMove_engine (s : State) : performMove .engine s = .next (engineTurn s) := rfl
@[simp] theorem performMove_reset (s : State) : performMove .reset s = .next (resetBlock s) := rfl

@[simp] theorem step_nextMove (s : State) (m : Move) : step (s.nextMove m) = performMove m s := rfl

@[simp] theorem step_hostWrites {s : State} {off : Nat} {v : Word} (hlt : off < 64) (hmod : off % 8 = 0) :
    step (s.hostWrites off v) = writeReg (regAt off) v s := by
  rw [State.hostWrites, step_nextMove, performMove_host, hostAccess_write, atOffset_of_supported hlt hmod]

@[simp] theorem step_hostReads {s : State} {off : Nat} (hlt : off < 64) (hmod : off % 8 = 0) :
    step (s.hostReads off) = .next { s with replies := readReg (regAt off) s :: s.replies } := by
  rw [State.hostReads, step_nextMove, performMove_host, hostAccess_read, atOffset_of_supported hlt hmod]

/-- What a step can do when it answers a next state: the ENGINE's turn, the RESET move, a read, or a write at one of the
eight offsets (R12, R52). -/
theorem step_cases {s t : State} (h : step s = .next t) :
    (EngineNext s ∧ t = engineTurn { s with agenda := s.agenda.tail }) ∨
    (ResetsNext s ∧ t = resetBlock { s with agenda := s.agenda.tail }) ∨
    (∃ off, off < 64 ∧ off % 8 = 0 ∧ s.agenda.head? = some (.host (.read (64 * s.windowPage + off) 8)) ∧
      t = { s with agenda := s.agenda.tail, replies := readReg (regAt off) s :: s.replies }) ∨
    (∃ off v, off < 64 ∧ off % 8 = 0 ∧ WritesNext s off v ∧
      writeReg (regAt off) v { s with agenda := s.agenda.tail } = .next t) := by
  unfold step at h
  split at h
  case h_1 ha =>
    injection h with h
    have hs : { s with agenda := s.agenda.tail } = s := by
      rw [ha, List.tail_nil, ← ha]
    exact .inl ⟨.inl ha, by rw [hs, h]⟩
  case h_2 m rest ha =>
    cases m with
    | engine =>
      injection h with h
      exact .inl ⟨.inr (by simp [ha]), by simp [← h, ha]⟩
    | reset =>
      injection h with h
      exact .inr (.inl ⟨by simp [ResetsNext, ha], by simp [← h, ha]⟩)
    | host a =>
      cases a with
      | read addr bytes =>
        rw [performMove_host, hostAccess_read] at h
        obtain ⟨off, hlt, hmod, rfl, rfl, hnext⟩ := atOffset_next h
        injection hnext with hnext
        refine .inr (.inr (.inl ⟨off, hlt, hmod, by simp [ha], ?_⟩))
        rw [← hnext, ha]
        rfl
      | write addr bytes v =>
        rw [performMove_host, hostAccess_write] at h
        obtain ⟨off, hlt, hmod, rfl, rfl, hnext⟩ := atOffset_next h
        refine .inr (.inr (.inr ⟨off, v, hlt, hmod, by simp [WritesNext, ha], ?_⟩))
        rw [ha]
        exact hnext

/-- What a write of a register can do: set one operand register, process a CMD write, or nothing (R34). -/
theorem writeReg_cases {off : Nat} {v : Word} {s t : State} (h : writeReg (regAt off) v s = .next t) :
    (off = 0x00 ∧ t = { s with opa := v }) ∨
    (off = 0x08 ∧ t = { s with opb := v }) ∨
    (off = 0x10 ∧ t = { s with opm := v }) ∨
    (off = 0x18 ∧ cmdWrite v s = .next t) ∨
    (off ≠ 0x18 ∧ t = s) := by
  unfold regAt at h
  split at h <;> simp_all [writeReg]

end Sys2Proof.Machine
end

