-- ==== Sys2Proof/Laws/PerInstr.lean ====
section
/-! SUPPORT. The per-instruction family EncodedFields (LAWS.json): the CMD64 fields of a command's word (spec/30_encoding.md R81,
R82). -/

namespace Sys2Proof.Laws.EncodedFields

/-- The command's word has its opcode in bits 3:0 and zero above, and its fields pass every check of R86. -/
def Statement (i : Instr) : Prop :=
  cmdFields (encode i) = { opcode := opcodeOf i, rsvd := 0 } ∧ (cmdFields (encode i)).wf = true ∧ i.wf = true

theorem modadd : Statement .modadd := ⟨rfl, rfl, rfl⟩
theorem modmul : Statement .modmul := ⟨rfl, rfl, rfl⟩
theorem modpow : Statement .modpow := ⟨rfl, rfl, rfl⟩
theorem gcd : Statement .gcd := ⟨rfl, rfl, rfl⟩
theorem modinv : Statement .modinv := ⟨rfl, rfl, rfl⟩

end Sys2Proof.Laws.EncodedFields
end

