-- ==== Sys2Proof/Laws/Script.lean ====
section
/-! SUPPORT. Small lemmas of the host script layer: what an evaluation gives, what a temporary takes, and what a line's turn is. -/

namespace Sys2Proof.Machine.Script

@[simp] theorem known_apply {α : Type} (v : α) (draw : Nat) : known v draw = (v, draw) := rfl

@[simp] theorem drawn_apply {α : Type} (free : Nat → α) (draw : Nat) : drawn free draw = (free draw, draw + 1) := rfl

@[simp] theorem onBoth_apply {α : Type} (x y : Eval Int) (op : Int → Int → Eval α) (draw : Nat) :
    onBoth x y op draw = op (x draw).1 (y (x draw).2).1 (y (x draw).2).2 := rfl

@[simp] theorem exprValue_arg (temps : Vector Word 16) (o : Operand) (draw : Nat) :
    exprValue temps (.arg o) draw = (((operandValue temps o).toNat : Int), draw) := rfl

/-- A 64-bit value fits in 64 bits. -/
@[simp] theorem fitsIn_word (w : Word) : fitsIn 64 (w.toNat : Int) = true := by
  have := w.isLt
  simp only [fitsIn, decide_eq_true_eq]
  omega

/-- A natural number below 2^bits fits. -/
theorem fitsIn_of_lt {bits n : Nat} (h : n < 2 ^ bits) : fitsIn bits (n : Int) = true := by
  have : ((n : Int) < 2 ^ bits) := by exact_mod_cast h
  simpa [fitsIn] using this

/-- A result in [0, 2^64) goes into a temporary as it is, and draws nothing (R87). -/
theorem wordValue_of_lt {n : Nat} (h : n < 2 ^ 64) (draw : Nat) : wordValue (n : Int) draw = (BitVec.ofNat 64 n, draw) := by
  rw [wordValue, if_pos (fitsIn_of_lt h), known_apply, BitVec.ofInt_natCast]

/-- An assignment sets its temporary to the value of its expression, where that is a 64-bit value with no draw. -/
theorem assign_of_value {t : Fin 16} {e : Expr} {h : HostState} {n : Nat} (hn : n < 2 ^ 64)
    (he : exprValue h.temps e h.draws = ((n : Int), h.draws)) :
    assign t e h = { h with temps := h.temps.set t (BitVec.ofNat 64 n), line := h.line + 1 } := by
  simp only [assign, he, wordValue_of_lt hn]
  rfl

/-- A branch goes on at the line its condition selects (R87). -/
theorem branch_of_label {script : List Line} {c : Cond} {name : String} {h : HostState} {n : Nat}
    (hl : labelLine script name = some n) :
    branch script c name h = .next { h with
      line := if (condValue h.temps c h.draws).1 = true then n else h.line + 1
      draws := (condValue h.temps c h.draws).2 } := by
  unfold branch
  split
  case isTrue hc => simp [jump, hl, hc]
  case isFalse hc => simp [advance, hc]

/-- The window offset of a register is a supported one, and names it (R20). -/
theorem regAt_regOffset (r : Reg) : regAt (regOffset r) = some r ∧ regOffset r < 64 ∧ regOffset r % 8 = 0 := by
  cases r <;> exact ⟨rfl, by decide, by decide⟩

end Sys2Proof.Machine.Script
end

