-- ==== Sys2Proof/Tests/Slice0.lean ====
section
/-! SUPPORT. Our own tests: the WellFormed smoke tests, the decode words written out from spec/30_encoding.md R81 and R82, steps with
the expected values of spec/95_test_vectors.md, and a witness for the hypotheses of every statement that has some. -/

namespace Sys2Proof.Tests

open Sys2Proof Sys2Proof.Machine

/-! ### WellFormed: an ill-formed term for each check, and a well-formed one -/

theorem test_wf_refuses_reserved_bits : CmdFields.wf { opcode := 1, rsvd := 1 } = false := by decide
theorem test_wf_refuses_opcode_zero : CmdFields.wf { opcode := 0, rsvd := 0 } = false := by decide
theorem test_wf_refuses_reserved_opcode : CmdFields.wf { opcode := 6, rsvd := 0 } = false := by decide
theorem test_wf_accepts_modinv_fields : CmdFields.wf { opcode := 5, rsvd := 0 } = true := by decide

/-! ### Decode: RSVD (60 bits) and OPCODE (4 bits) of each word, written out (R81, R82) -/

theorem test_decode_modadd_word : decode ((0#60 ++ 0b0001#4 : BitVec 64)) = .ok .modadd := by decide
theorem test_decode_modmul_word : decode ((0#60 ++ 0b0010#4 : BitVec 64)) = .ok .modmul := by decide
theorem test_decode_modpow_word : decode ((0#60 ++ 0b0011#4 : BitVec 64)) = .ok .modpow := by decide
theorem test_decode_gcd_word : decode ((0#60 ++ 0b0100#4 : BitVec 64)) = .ok .gcd := by decide
theorem test_decode_modinv_word : decode ((0#60 ++ 0b0101#4 : BitVec 64)) = .ok .modinv := by decide
/-- 95_test_vectors.md 2.6 rows 8, 9 and 12. -/
theorem test_decode_illegal_words :
    decode 0xF#64 = .error .reservedOpcode ∧ decode 0x10#64 = .error .reservedBits ∧
    decode 0xFFFF_FFFF_FFFF_FFFF#64 = .error .reservedBits := by decide
theorem test_decode_table_word : decodeTableWord 64 4 = some .gcd ∧ decodeTableWord 8 5 = some .modinv ∧
    decodeTableWord 64 7 = none := by decide
/-- R54: byte 0 is bits 7 to 0. -/
theorem test_decode_bytes_little_endian : decodeBytes [3, 0, 0, 0, 0, 0, 0, 0] = .ok .modpow := by decide

/-! ### States and helpers -/

/-- IDLE with OPA = 5, OPB = 7, OPM = 11 and the window at 0xC0. -/
def idleState : State := { State.reset with opa := 5, opb := 7, opm := 11, windowPage := 3 }

/-- IDLE with the given operands. -/
def withOperands (a b m : Word) : State := { State.reset with opa := a, opb := b, opm := m }

/-- A command in flight on the given operands. -/
def inFlight (i : Instr) (a b m : Word) : State := acceptedState i (withOperands a b m)

/-- A field of the next state. -/
def nextField {α : Type} (f : State → α) (o : Host.Outcome State Fault Refusal) : Option α :=
  match o with
  | .next t => some (f t)
  | _ => none

/-- RESULT after the ENGINE's step. -/
def completedResult (i : Instr) (a b m : Word) : Option Word :=
  nextField State.result (step ((inFlight i a b m).nextMove .engine))

/-! ### One step of each command (95_test_vectors.md section 2) -/

/-- 2.1 row 6: a carry out of bit 63 inside the adder. -/
theorem test_modadd_carry :
    completedResult .modadd 0xFFFF_FFFF_FFFF_FFFE 0xFFFF_FFFF_FFFF_FFFD 0xFFFF_FFFF_FFFF_FFFF = some 0xFFFF_FFFF_FFFF_FFFC := by
  decide
/-- 2.1 row 3: both operands at least m. -/
theorem test_modadd_reduces_operands : completedResult .modadd 0xA 0x14 0x7 = some 0x2 := by decide
/-- 2.2 row 8: a product of exactly MAX64, on the double-and-add path. -/
theorem test_modmul_product_max64 :
    completedResult .modmul 0xFFFF_FFFF 0x1_0000_0001 0xFFFF_FFFF_FFFF_FFFF = some 0 := by decide +kernel
/-- 2.2 row 12: large operands. -/
theorem test_modmul_large :
    completedResult .modmul 0x1234_5678_9ABC_DEF0 0x0FED_CBA9_8765_4321 0xFFFF_FFFF_FFFF_FFC5 =
      some 0x650B_76B7_E000_2926 := by decide +kernel
/-- 2.3 row 3: exponent 0 with m = 1 gives 0 (90_conflicts.md C1). -/
theorem test_modpow_zero_exponent_modulus_one : completedResult .modpow 0 0 1 = some 0 := by decide +kernel
/-- 2.3 row 12: the signature of the source's scenario. -/
theorem test_modpow_sign : completedResult .modpow 0x41 0xAC1 0xCA1 = some 0x24C := by decide +kernel
/-- 2.4 row 11. -/
theorem test_gcd_large : completedResult .gcd 0xFFFF_FFFF_FFFF_FFFF 0xFFFF_FFFF 0 = some 0xFFFF_FFFF := by decide +kernel
/-- 2.4 rows 1 and 3. -/
theorem test_gcd_zero_operands : completedResult .gcd 0 0 0 = some 0 ∧ completedResult .gcd 9 0 0 = some 9 := by decide +kernel
/-- 2.5 row 3. -/
theorem test_modinv_scenario : completedResult .modinv 0x10001 0 0xC30 = some 0xAC1 := by decide +kernel
/-- 2.5 rows 5 and 7: phi = 1, and e = phi - 1 with the largest phi. -/
theorem test_modinv_corners : completedResult .modinv 5 0 1 = some 0 ∧
    completedResult .modinv 0xFFFF_FFFF_FFFF_FFFE 0 0xFFFF_FFFF_FFFF_FFFF = some 0xFFFF_FFFF_FFFF_FFFE := by decide +kernel
/-- 2.5 row 12: a pair that is not coprime completes with STATUS 0x2. -/
theorem test_modinv_not_coprime_status :
    nextField (fun t => statusWord t.status) (step ((inFlight .modinv 0 0 5).nextMove .engine)) = some 0x2 := by decide +kernel

/-! ### Status sequencing (95_test_vectors.md 2.7) -/

/-- The STATUS word after a CMD write of w. -/
def statusAfterCmd (s : State) (w : Word) : Option Word := nextField (fun t => statusWord t.status) (step (s.hostWrites 0x18 w))

/-- Row 2: illegal wins over OPM = 0. -/
theorem test_illegal_before_mod_zero : statusAfterCmd State.reset 7 = some 0x16 := by decide
/-- 2.1 row 13. -/
theorem test_mod_zero_status : statusAfterCmd (withOperands 5 7 0) 1 = some 0x26 := by decide
/-- Row 3. -/
theorem test_acceptance_status : statusAfterCmd idleState 1 = some 0x1 := by decide
/-- Rows 4 and 5: dropped, and not decoded while busy. -/
theorem test_dropped_status :
    statusAfterCmd (inFlight .modadd 5 7 11) 2 = some 0x9 ∧ statusAfterCmd (inFlight .modadd 5 7 11) 0 = some 0x9 := by decide
/-- Row 6: DROPPED is kept by the completion. -/
theorem test_completion_keeps_dropped :
    nextField (fun t => statusWord t.status) (step ((dropCommand (inFlight .modadd 5 7 11)).nextMove .engine)) = some 0xA := by
  decide
/-- Row 8: the latch, not the new OPA. -/
theorem test_operand_write_while_busy :
    nextField State.lat (step ((inFlight .gcd 5 7 11).hostWrites 0x00 100)) = some { op := .gcd, a := 5, b := 7, m := 11 } := by
  decide
/-- Row 9: reset while busy. -/
theorem test_reset_while_busy :
    nextField (fun t => (statusWord t.status, t.result, t.fsm)) (step ((inFlight .gcd 5 7 11).nextMove .reset)) =
      some (0, 0, .idle) := by decide
/-- Row 10: a write of STATUS changes nothing, and CMD reads as 0. -/
theorem test_status_write_ignored : nextField State.status (step (idleState.hostWrites 0x20 0xFF)) = some idleState.status := by
  decide
theorem test_cmd_reads_zero : nextField State.replies (step (idleState.hostReads 0x18)) = some [0] := by decide
/-- R53: a 4-byte access is refused. -/
theorem test_subword_refused :
    step (idleState.nextMove (.host (.read 0xC0 4))) = .refused (.unsupportedAccess 0xC0 4) := rfl
/-- The first word given to a machine just reset is fetched, decoded and run: MODADD with OPM = 0 reports MOD_ZERO. -/
theorem test_first_word_after_reset : nextField State.status (step (State.reset.withFetchWord 64 1)) =
    some { busy := false, done := true, err := true, dropped := false, errcode := .modZero } := by decide

/-! ### Host script notation (30_encoding.md R87) -/

/-- A host at a script's line 0 with every temporary 7, driving an idle block. -/
def scriptHost : Script.HostState :=
  { temps := Vector.replicate 16 7, line := 0, halted := false, draws := 0, block := State.reset }

/-- Run one line at `scriptHost` and read a field of what follows. -/
def afterLine {α : Type} (l : Script.Line) (f : Script.HostState → α) : Option α :=
  match Script.hostTurn [l] scriptHost with
  | .next h => some (f h)
  | _ => none

/-- A POLL line waits while BUSY and goes on when not. -/
theorem test_poll_waits_while_busy :
    (Script.afterPoll 2 1 scriptHost).line = 0 ∧ (Script.afterPoll 2 2 scriptHost).line = 1 ∧
    (Script.afterPoll 2 1 scriptHost).temps[2] = 1 := by decide
/-- Program P2: t0 <- 61 - 1. -/
theorem test_host_subtraction :
    afterLine (.assign 0 (.sub (.arg (.const 61)) (.arg (.const 1)))) (fun h => h.temps[0]) = some 60 := by decide
/-- R9: gcd(0, 0) = 0, a carry out of +_64, 7 div -2 = floor(-3.5) = -4, and zext_64 of a 32-bit value. -/
theorem test_host_operators :
    afterLine (.assign 0 (.gcd (.lit 0) (.lit 0))) (fun h => h.temps[0]) = some 0 ∧
    afterLine (.assign 0 (.gcd (.lit 12) (.lit 18))) (fun h => h.temps[0]) = some 6 ∧
    afterLine (.assign 0 (.carry64 (.arg (.const max64)) (.lit 1))) (fun h => h.temps[0]) = some 1 ∧
    afterLine (.assign 0 (.add64 (.arg (.const max64)) (.lit 1))) (fun h => h.temps[0]) = some 0 ∧
    afterLine (.assign 0 (.sub (.lit 0) (.div (.lit 7) (.sub (.lit 0) (.lit 2))))) (fun h => h.temps[0]) = some 4 ∧
    afterLine (.assign 0 (.zext 64 (.lit 0xFFFF_FFFF))) (fun h => h.temps[0]) = some 0xFFFF_FFFF := by decide +kernel
/-- Where R9 states no result the script goes on: a negative difference, and a division by 0 in a condition. -/
theorem test_unstated_host_value_goes_on :
    afterLine (.assign 0 (.sub (.lit 1) (.lit 2))) (fun h => (h.line, h.temps[1])) = some (1, 7) ∧
    afterLine (.assign 0 (.div (.lit 1) (.lit 0))) (fun h => (h.line, h.temps[1])) = some (1, 7) := by decide

/-! ### Witnesses: states and operands that meet the hypotheses of the statements

Named for the statement. Where a statement has several clauses, each has its own case, at the boundary of its range. -/

/-- LegalWordsAreExactlyFive, IllegalWordsAreTheReservedOnes: words on both sides of each boundary. -/
theorem witness_legal_and_illegal_words :
    decode 1 = .ok .modadd ∧ decode 5 = .ok .modinv ∧ decode 0 = .error .zeroOpcode ∧ decode 6 = .error .reservedOpcode ∧
    decode 0x11 = .error .reservedBits ∧ (cmdFields 5).wf = true ∧ (cmdFields 6).wf = false := by decide

/-- ByteLanesAreLittleEndian: the last byte and bit, and a list of 7 bytes. -/
theorem witness_ByteLanes : 7 < 8 ∧ ([0, 0, 0, 0, 0, 0, 0] : List Byte).length ≠ 8 := by decide

/-- OperandWritesSetTheRegister: the write answers a next state. -/
theorem witness_OperandWrites :
    nextField State.opa (step (idleState.hostWrites 0x00 9)) = some 9 ∧
    nextField State.opb (step (idleState.hostWrites 0x08 9)) = some 9 ∧
    nextField State.opm (step (idleState.hostWrites 0x10 9)) = some 9 ∧ 0x10 ∈ [0x00, 0x08, 0x10] := by decide

/-- StatusWordBits: a status of each error code. -/
theorem witness_StatusWordBits : (statusError .illegalCmd).errcode = .illegalCmd ∧ (statusError .modZero).errcode = .modZero ∧
    statusReset.errcode = .none := by decide

/-- UnsupportedAccessIsRefused: a narrow access, a wide one and a misaligned one. -/
theorem witness_UnsupportedAccess : (7 ≠ 8 ∨ 0 % 8 ≠ 0) ∧ (16 ≠ 8 ∨ 0 % 8 ≠ 0) ∧ (8 ≠ 8 ∨ 0xC1 % 8 ≠ 0) := by decide

/-- AccessOutsideTheWindowFaults: the last aligned address below the window and the first above it. -/
theorem witness_AccessOutside :
    (0xB8 % 8 = 0 ∧ (0xB8 < 64 * idleState.windowPage ∨ 64 * idleState.windowPage + 64 ≤ 0xB8)) ∧
    (0x100 % 8 = 0 ∧ (0x100 < 64 * idleState.windowPage ∨ 64 * idleState.windowPage + 64 ≤ 0x100)) := by decide

/-- StepsStopOnlyOnUnsupportedAccesses: a supported access at the window's last offset is performed, an unsupported one is not. -/
theorem witness_StepsStopOnly :
    Supported idleState (.read 0xF8 8) ∧ nextField State.replies (step (idleState.nextMove (.host (.read 0xF8 8)))) = some [0] ∧
    ¬ Supported idleState (.read 0xFC 8) := by
  simp [Supported, accessWidth, accessAddr, modcoreBase, idleState]
  decide

/-- WritesAndReadsAreIdempotent: an operand write and a read of the last offset answer a next state. -/
theorem witness_Idempotent :
    0x10 ∈ [0x00, 0x08, 0x10] ∧ nextField State.opm (step (idleState.hostWrites 0x10 4)) = some 4 ∧
    0x38 ∈ [0x00, 0x08, 0x10, 0x18, 0x20, 0x28, 0x30, 0x38] ∧ nextField State.replies (step (idleState.hostReads 0x38)) = some [0] := by
  decide

/-- CmdWriteFollowsItsRule, clause by clause: busy; idle with an illegal word; idle, modular, OPM = 0; idle GCD with OPM = 0; idle,
modular, OPM ≠ 0. -/
theorem witness_CmdWrite :
    (inFlight .modadd 5 7 11).fsm = .busy ∧
    (idleState.fsm = .idle ∧ ∀ i, decode 6 ≠ .ok i) ∧
    ((withOperands 5 7 0).fsm = .idle ∧ decode 5 = .ok .modinv ∧ Instr.modinv ≠ .gcd ∧ (withOperands 5 7 0).opm = 0) ∧
    ((withOperands 5 7 0).fsm = .idle ∧ decode 4 = .ok .gcd) ∧
    (idleState.fsm = .idle ∧ decode 1 = .ok .modadd ∧ idleState.opm ≠ 0) :=
  ⟨rfl, ⟨rfl, fun i => by cases i <;> decide⟩, by decide, by decide, by decide⟩

/-- DroppedIsStickyUntilProcessed: a busy state; an ENGINE turn; a step that clears DROPPED. -/
theorem witness_Dropped :
    (inFlight .modadd 5 7 11).fsm = .busy ∧
    EngineNext ((inFlight .modadd 5 7 11).nextMove .engine) ∧
    nextField (fun t => t.status.dropped) (step ((inFlight .modadd 5 7 11).nextMove .engine)) = some false ∧
    (dropCommand idleState).status.dropped = true ∧
    nextField (fun t => t.status.dropped) (step ((dropCommand idleState).hostWrites 0x18 4)) = some false :=
  ⟨rfl, .inr rfl, by decide, rfl, by decide⟩

/-- IllegalWordReportsIllegalCmd: a word for each of its three cases. -/
theorem witness_IllegalWord :
    idleState.fsm = .idle ∧ BitVec.extractLsb' 4 60 (0x11 : Word) ≠ 0 ∧ BitVec.extractLsb' 0 4 (0x0 : Word) = 0 ∧
    6 ≤ (BitVec.extractLsb' 0 4 (0x6 : Word)).toNat := by decide

/-- ZeroModulusReportsModZero: OPM = 0 and OPM ≠ 0. -/
theorem witness_ZeroModulus :
    (withOperands 5 7 0).fsm = .idle ∧ (withOperands 5 7 0).opm = 0 ∧ (withOperands 5 7 1).opm ≠ 0 ∧ Instr.modpow ≠ .gcd := by decide

/-- ErrorChangesOnlyStatus: an illegal word from IDLE. -/
theorem witness_Error :
    idleState.fsm = .idle ∧ nextField (fun t => t.status.err) (step (idleState.hostWrites 0x18 0)) = some true := by decide

/-- CommandLatchesOperandsWrittenBefore. -/
theorem witness_CommandLatches : State.reset.fsm = .idle ∧ (1 : Word) ≠ 0 := by decide

/-- ModaddCommand, ModmulCommand, ModpowCommand, GcdCommand: IDLE with OPM = 0, and with the smallest nonzero OPM. -/
theorem witness_Commands :
    (withOperands 5 7 0).fsm = .idle ∧ (withOperands 5 7 0).opm = 0 ∧ (withOperands 5 7 1).fsm = .idle ∧
    (withOperands 5 7 1).opm ≠ 0 := by decide

/-- ModinvCommand: OPM = 0; a coprime pair; OPM = 1; a pair that is not coprime. -/
theorem witness_ModinvCommand :
    (withOperands 3 0 0).opm = 0 ∧
    ((withOperands 3 0 11).opm ≠ 0 ∧ Nat.gcd (withOperands 3 0 11).opa.toNat (withOperands 3 0 11).opm.toNat = 1) ∧
    ((withOperands 0 0 1).opm = 1 ∧ Nat.gcd (withOperands 0 0 1).opa.toNat (withOperands 0 0 1).opm.toNat = 1) ∧
    ((withOperands 2 0 4).opm ≠ 0 ∧ Nat.gcd (withOperands 2 0 4).opa.toNat (withOperands 2 0 4).opm.toNat ≠ 1) := by decide

/-- ModinvOnNonCoprimeOperandsCompletes. -/
theorem witness_ModinvNonCoprime :
    (inFlight .modinv 2 0 4).fsm = .busy ∧ (inFlight .modinv 2 0 4).lat.op = .modinv ∧ (inFlight .modinv 2 0 4).lat.m ≠ 0 ∧
    Nat.gcd (inFlight .modinv 2 0 4).lat.a.toNat (inFlight .modinv 2 0 4).lat.m.toNat ≠ 1 ∧ Inv (inFlight .modinv 2 0 4) ∧
    2 ≤ 2 := by decide

/-- The unit statements' m ≠ 0, at m = 1 and at MAX64. -/
theorem witness_units_nonzero_modulus : (1 : Word) ≠ 0 ∧ max64 ≠ 0 := by decide

/-- ModadderLaws, ExponentiationLaws, InverseUnitCornerCases: the further hypotheses of their clauses. -/
theorem witness_unit_laws :
    ((4 : Word).toNat < (5 : Word).toNat) ∧ 1 ≤ (1 : Word).toNat ∧ (1 : Word).toNat + (0 : Word).toNat < 2 ^ 64 ∧
    2 ≤ (2 : Word).toNat ∧ gcd64 4 6 ≠ 0 := by decide +kernel

/-- DirectPathIsExact: a = 0, and b one below the bound MAX64 div a. -/
theorem witness_DirectPath :
    ((0 : Word) = 0 ∨ (7 : Word).toNat < (2 ^ 64 - 1) / (0 : Word).toNat) ∧
    ((2 : Word) = 0 ∨ (0x7FFF_FFFF_FFFF_FFFE : Word).toNat < (2 ^ 64 - 1) / (2 : Word).toNat) := by decide

/-- DoubleAddLoopInvariant, SquareMultiplyLoopInvariant, EuclidLoopEndsWithin93: the ends of their ranges. -/
theorem witness_loops : 0 ≤ 64 ∧ 64 ≤ 64 ∧ 93 ≤ 93 := by decide

/-- InverseUnitFindsTheInverse: a pair with an inverse, with a d' that meets the last clause. -/
theorem witness_InverseUnit : modinvFound 3 11 = some 4 ∧ 4 < (11 : Word).toNat ∧
    (4 * (3 : Word).toNat) % (11 : Word).toNat = 1 % (11 : Word).toNat := by decide +kernel

/-- CmdWriteFrame: each command answers a next state, busy, in error and accepted. -/
theorem witness_CmdWriteFrame :
    ∀ i : Instr, nextField State.fsm (exec i (inFlight .gcd 5 7 11)) = some .busy ∧
      nextField State.fsm (exec i idleState) = some .busy ∧
      (i ≠ .gcd → nextField (fun t => t.status.err) (exec i (withOperands 5 7 0)) = some true) := by
  intro i
  cases i <;> decide

/-- CompletionFrame: an ENGINE turn while BUSY and while IDLE, and an empty agenda. -/
theorem witness_CompletionFrame :
    EngineNext ((inFlight .gcd 4 6 0).nextMove .engine) ∧
    nextField State.fsm (step ((inFlight .gcd 4 6 0).nextMove .engine)) = some .idle ∧
    EngineNext (inFlight .gcd 4 6 0) ∧ (inFlight .gcd 4 6 0).fsm = .busy ∧
    EngineNext idleState ∧ idleState.fsm = .idle :=
  ⟨.inr rfl, by decide, .inl rfl, rfl, .inl rfl, rfl⟩

/-- ResultChangesOnlyByCompletionOrReset: a step that changes RESULT. -/
theorem witness_ResultChanges :
    nextField State.result (step ((inFlight .gcd 4 6 0).nextMove .engine)) = some 2 ∧ (inFlight .gcd 4 6 0).result = 0 := by
  decide +kernel

/-- OutcomeStaysUntilProcessedCmdWrite: a step that changes ERR and ERRCODE. -/
theorem witness_OutcomeStays :
    nextField (fun t => (t.status.err, t.status.errcode)) (step (idleState.hostWrites 0x18 0)) = some (true, .illegalCmd) ∧
    (idleState.status.err, idleState.status.errcode) = (false, .none) := by decide

/-- OperandsChangeOnlyByTheirWrites: a write that changes each operand register. -/
theorem witness_OperandsChange :
    nextField State.opa (step (idleState.hostWrites 0x00 9)) ≠ some idleState.opa ∧
    nextField State.opb (step (idleState.hostWrites 0x08 9)) ≠ some idleState.opb ∧
    nextField State.opm (step (idleState.hostWrites 0x10 9)) ≠ some idleState.opm := by decide

/-- LatchWrittenOnlyByAcceptance, BusyEnteredAndLeftAsStated: an acceptance, which writes the latch and enters BUSY; and a
completion, which leaves it. -/
theorem witness_LatchAndBusy :
    idleState.fsm = .idle ∧ nextField State.fsm (step (idleState.hostWrites 0x18 4)) = some .busy ∧
    nextField State.lat (step (idleState.hostWrites 0x18 4)) ≠ some idleState.lat ∧
    (inFlight .gcd 4 6 0).fsm = .busy ∧ nextField State.fsm (step ((inFlight .gcd 4 6 0).nextMove .engine)) = some .idle := by
  decide

/-- NeitherBusyNorDoneOnlyAfterReset: a step that is no reset from a state that is busy; a CMD write from IDLE. -/
theorem witness_NeitherBusyNorDone :
    ¬ ResetsNext ((inFlight .gcd 4 6 0).nextMove .engine) ∧ (inFlight .gcd 4 6 0).status.busy = true ∧
    WritesNext (idleState.hostWrites 0x18 0) 0x18 0 ∧ idleState.fsm = .idle :=
  ⟨by simp [ResetsNext, State.nextMove], rfl, rfl, rfl⟩

/-- StepTakesOneMove: a read answers a next state. -/
theorem witness_StepTakesOneMove : nextField State.replies (step (idleState.hostReads 0x00)) = some [5] := by decide

/-- StepRunsTheDecodedCommand: both modes. -/
theorem witness_StepRuns : decode 5 = .ok .modinv ∧ idleState.fsm = .idle ∧ (inFlight .gcd 4 6 0).fsm = .busy := by decide

/-- EngineTurnIsCompletion: each clause's fsm and agenda. -/
theorem witness_EngineTurn : (inFlight .gcd 4 6 0).fsm = .busy ∧ (inFlight .gcd 4 6 0).agenda = [] ∧ idleState.fsm = .idle ∧
    idleState.agenda = [] := by decide

/-- EveryStepKeepsTheStatusInvariants, DoneResultIsTheLatchedCommandsResult: BUSY and completed states that meet them. -/
theorem witness_Invariants :
    Inv (inFlight .gcd 4 6 0) ∧ ResultOk (inFlight .gcd 4 6 0) ∧
    Inv (completedState 2 (inFlight .gcd 4 6 0)) ∧ ResultOk (completedState 2 (inFlight .gcd 4 6 0)) :=
  ⟨by decide, (fun h => absurd h (by decide)), by decide, (fun _ _ => rfl)⟩

/-- HostAccessesDoNotDisturbTheCommandInFlight: a busy state with an operand write, a CMD write and a read, all supported. -/
theorem witness_HostAccesses :
    (inFlight .gcd 4 6 0).fsm = .busy ∧
    (∀ a ∈ [Access.write 0x00 8 9, .write 0x18 8 1, .read 0x38 8], Supported (inFlight .gcd 4 6 0) a) ∧
    LatchOk (inFlight .gcd 4 6 0) := by
  refine ⟨rfl, ?_, by decide⟩
  simp [Supported, accessWidth, accessAddr, modcoreBase, inFlight, acceptedState, withOperands, State.reset]

/-- IdleLatchCannotBeObserved: two states that differ in their idle latch. -/
theorem witness_IdleLatch :
    EqualButIdleLatch idleState { idleState with lat := { op := .gcd, a := 1, b := 2, m := 3 } } ∧
    idleState.lat ≠ { op := .gcd, a := 1, b := 2, m := 3 } :=
  ⟨.inr ⟨rfl, rfl⟩, by decide⟩

/-- StartedCommandEventuallyCompletes: a busy state with a poll and no reset still to come. -/
theorem witness_StartedCommand :
    ((inFlight .gcd 4 6 0).hostReads 0x20).fsm = .busy ∧ Move.reset ∉ ((inFlight .gcd 4 6 0).hostReads 0x20).agenda ∧
    Inv ((inFlight .gcd 4 6 0).hostReads 0x20) ∧ SafeAgenda ((inFlight .gcd 4 6 0).hostReads 0x20) := by
  refine ⟨rfl, by decide, by decide, ?_⟩
  intro a h
  simp [State.hostReads, State.nextMove, inFlight, acceptedState, withOperands, State.reset] at h
  subst h
  simp [Supported, accessWidth, accessAddr, modcoreBase, State.hostReads, State.nextMove, inFlight, acceptedState, withOperands,
    State.reset]

/-- ScriptLinesAreBusAccesses: a script with each of its lines, W of a constant and of a temporary, and a block that takes the
access. -/
theorem witness_ScriptLines :
    ([.write .opa (.const 5), .cmd .gcd, .cmdWord 6, .read .result 0, .write .opa (.temp 3), .poll 15] : List Script.Line)[5]? =
      some (.poll 15) ∧
    nextField State.opa (step (idleState.hostWrites (regOffset .opa) (Script.operandValue scriptHost.temps (.const 5)))) = some 5 ∧
    nextField State.opa (step (idleState.hostWrites (regOffset .opa) (Script.operandValue scriptHost.temps (.temp 3)))) = some 7 ∧
    nextField State.fsm (step (idleState.hostWrites 0x18 (encode .gcd))) = some .busy ∧
    nextField (fun t => t.status.err) (step (idleState.hostWrites 0x18 6)) = some true ∧
    nextField State.replies (step (idleState.hostReads (regOffset .result))) = some [0] ∧
    nextField State.replies (step (idleState.hostReads 0x20)) = some [0] := by decide

/-- HostArithmeticGivesTheStatedValues: each clause's hypotheses at a boundary of their range. -/
theorem witness_HostArithmetic :
    scriptHost.halted = false ∧
    (max64.toNat + (0 : Word).toNat < 2 ^ 64) ∧ ((7 : Word).toNat ≤ (7 : Word).toNat) ∧
    ((0xFFFF_FFFF : Word).toNat * (0xFFFF_FFFF : Word).toNat < 2 ^ 64) ∧ (1 : Word) ≠ 0 ∧
    (max64.toNat < 2 ^ 64) ∧ (0xFFFF_FFFF : Word).toNat < 2 ^ 32 ∧
    2 ^ 64 ≤ (max64.toNat : Int) + (1 : Word).toNat := by decide +kernel

/-- HostControlLineOutcomes: each line, in a script that holds the label and in one that does not, and past the last line. -/
theorem witness_HostControlLines :
    scriptHost.halted = false ∧
    Script.labelLine [.goto "done", .label "done"] "done" = some 1 ∧
    Script.labelLine [.ifGoto (.eq (.lit 1) (.div (.lit 1) (.lit 0))) "done", .label "done"] "done" = some 1 ∧
    Script.labelLine [.ifGoto (.lt (.arg (.temp 0)) (.arg (.const 7))) "done", .label "done"] "done" = some 1 ∧
    ¬ (Script.operandValue scriptHost.temps (.temp 0)).toNat < (Script.operandValue scriptHost.temps (.const 7)).toNat ∧
    (Script.operandValue scriptHost.temps (.temp 0)).toNat < (Script.operandValue scriptHost.temps (.const 8)).toNat ∧
    Script.labelLine [.goto "gone", .label "done"] "gone" = none ∧
    Script.labelLine [.ifGoto (.eq (.lit 1) (.lit 1)) "gone", .label "done"] "gone" = none ∧
    ([.assign 0 (.sub (.lit 1) (.lit 2)), .halt] : List Script.Line)[1]? = some .halt ∧
    ([.assign 0 (.sub (.lit 1) (.lit 2)), .halt] : List Script.Line)[2]? = none := by decide

end Sys2Proof.Tests
end

section
/-! PROOFS. Host arithmetic (R9, R87): what each operator gives on operands that draw nothing, and what
an assignment of it does. -/

namespace Sys2Proof.Machine.Script

/-! Each operator, on two expressions whose values are known without a draw. -/

section Operators

variable {temps : Vector Word 16} {x y : Expr} {draw : Nat} {u v : Int}
variable (hx : exprValue temps x draw = (u, draw)) (hy : exprValue temps y draw = (v, draw))
include hx hy

/-- An operator sees both values and the next free value is still the one it was. -/
theorem onBoth_of_values {α : Type} (op : Int → Int → Eval α) :
    onBoth (exprValue temps x) (exprValue temps y) op draw = op u v draw := by
  simp only [onBoth_apply, hx, hy]

theorem exprValue_add : exprValue temps (.add x y) draw = (u + v, draw) := onBoth_of_values hx hy _

theorem exprValue_sub : exprValue temps (.sub x y) draw = (u - v, draw) := onBoth_of_values hx hy _

theorem exprValue_mul : exprValue temps (.mul x y) draw = (u * v, draw) := onBoth_of_values hx hy _

theorem exprValue_add64 : exprValue temps (.add64 x y) draw = ((u + v) % 2 ^ 64, draw) := onBoth_of_values hx hy _

theorem exprValue_sub64 : exprValue temps (.sub64 x y) draw = ((u - v) % 2 ^ 64, draw) := onBoth_of_values hx hy _

theorem exprValue_gcd : exprValue temps (.gcd x y) draw = ((Int.gcd u v : Int), draw) := onBoth_of_values hx hy _

theorem exprValue_div (hv : v ≠ 0) : exprValue temps (.div x y) draw = (Int.fdiv u v, draw) :=
  (onBoth_of_values hx hy divValue).trans (by rw [divValue, if_pos hv, known_apply])

theorem exprValue_mod (hv : 0 < v) : exprValue temps (.mod x y) draw = (u % v, draw) :=
  (onBoth_of_values hx hy modValue).trans (by rw [modValue, if_pos hv, known_apply])

theorem exprValue_carry64 (hu : fitsIn 64 u = true) (hv : fitsIn 64 v = true) :
    exprValue temps (.carry64 x y) draw = ((u + v) / 2 ^ 64, draw) :=
  (onBoth_of_values hx hy carryValue).trans (by rw [carryValue, if_pos ⟨hu, hv⟩, known_apply])

end Operators

theorem exprValue_lit (temps : Vector Word 16) (n draw : Nat) : exprValue temps (.lit n) draw = ((n : Int), draw) := rfl

theorem exprValue_zext {temps : Vector Word 16} {x : Expr} {draw bits : Nat} {u : Int}
    (hx : exprValue temps x draw = (u, draw)) (hu : fitsIn bits u = true) :
    exprValue temps (.zext bits x) draw = (u, draw) := by
  simp only [exprValue, hx, zextValue, hu, if_true, known_apply]

/-- `0 - x` is the negation R9's integers have. -/
theorem exprValue_neg {temps : Vector Word 16} {x : Expr} {draw : Nat} {u : Int}
    (hx : exprValue temps x draw = (u, draw)) : exprValue temps (.sub (.lit 0) x) draw = (-u, draw) := by
  rw [exprValue_sub (exprValue_lit temps 0 draw) hx, Nat.cast_zero, zero_sub]

/-! The arithmetic of the operators on natural numbers. -/

/-- Floor division by a negative number rounds the quotient's size up: `u div -v` is minus the ceiling of u / v. -/
theorem natCast_fdiv_neg {u v : Nat} (hv : v ≠ 0) : Int.fdiv u (-(v : Int)) = -(((u + v - 1) / v : Nat) : Int) := by
  have hquot : v * ((u + v - 1) / v) + (u + v - 1) % v = u + v - 1 := Nat.div_add_mod _ _
  have hrem : (u + v - 1) % v < v := Nat.mod_lt _ (Nat.pos_of_ne_zero hv)
  have hneg : -(v : Int) < 0 := by omega
  refine ((Int.fdiv_fmod_unique' (r := (u : Int) - (v * ((u + v - 1) / v) : Nat)) hneg).2 ⟨?_, ?_, ?_⟩).1
  · rw [neg_mul_neg, Nat.cast_mul]
    ring
  all_goals omega

theorem ceilDiv_le_self {u v : Nat} (hv : v ≠ 0) : (u + v - 1) / v ≤ u := by
  rw [← Nat.ceilDiv_eq_add_pred_div, ceilDiv_le_iff_le_mul (Nat.pos_of_ne_zero hv)]
  exact Nat.le_mul_of_pos_left u (Nat.pos_of_ne_zero hv)

theorem gcd_lt_of_lt {u v n : Nat} (hu : u < n) (hv : v < n) : Nat.gcd u v < n := by
  obtain rfl | hpos := Nat.eq_zero_or_pos u
  · rwa [Nat.gcd_zero_left]
  · exact (Nat.gcd_le_left v hpos).trans_lt hu

/-! An assignment line. -/

/-- A running host performs the assignment its line holds. -/
theorem hostTurn_assign {script : List Line} {h : HostState} {t : Fin 16} {e : Expr} (hrun : h.halted = false)
    (hline : script[h.line]? = some (.assign t e)) : hostTurn script h = .next (assign t e h) := by
  simp [hostTurn, hrun, hline]

/-- A line that assigns an expression of a known 64-bit value puts the value into its temporary, and only goes on. -/
theorem hostTurn_assign_of_value {script : List Line} {h : HostState} {t : Fin 16} {e : Expr} {z : Int} {n : Nat}
    (hrun : h.halted = false) (he : exprValue h.temps e h.draws = (z, h.draws)) (hz : z = n) (hn : n < 2 ^ 64)
    (hline : script[h.line]? = some (.assign t e)) :
    hostTurn script h = .next { h with temps := h.temps.set t (BitVec.ofNat 64 n), line := h.line + 1 } := by
  rw [hostTurn_assign hrun hline, assign_of_value hn (he.trans (by rw [hz]))]

end Sys2Proof.Machine.Script

open Sys2Proof.Machine.Script in
/-- Settles O59: each operator's own lemma gives the value over the integers with no draw, and hostTurn_assign_of_value the line's
outcome; what is left per operator is that the integer is the stated natural number, and that it is below 2^64. -/
theorem hostArithmeticGivesTheStatedValues : Obligations.HostArithmeticGivesTheStatedValues := by
  intro script h t x y bits hrun u v runs
  have hx : exprValue h.temps (.arg x) h.draws = ((u : Int), h.draws) := exprValue_arg ..
  have hy : exprValue h.temps (.arg y) h.draws = ((v : Int), h.draws) := exprValue_arg ..
  have hu : u < 2 ^ 64 := (operandValue h.temps x).isLt
  have hv : v < 2 ^ 64 := (operandValue h.temps y).isLt
  have line {e : Expr} {z : Int} {n : Nat} (he : exprValue h.temps e h.draws = (z, h.draws)) (hz : z = n)
      (hn : n < 2 ^ 64) : runs e n := hostTurn_assign_of_value hrun he hz hn
  have hneg (hv0 : v ≠ 0) : -(v : Int) ≠ 0 := by omega
  have hfloor : Int.fdiv u v = ((u / v : Nat) : Int) := Int.fdiv_eq_ediv_of_nonneg _ (Int.natCast_nonneg v)
  have hdiv : u / v < 2 ^ 64 := (Nat.div_le_self u v).trans_lt hu
  clear_value u v
  refine ⟨?arg, ?add, ?sub, ?mul, ?div, ?divNegNeg, ?divNeg, ?mod, ?add64, ?carry64, ?sub64, ?gcd, ?zext⟩
  case arg => exact line hx rfl hu
  case add => exact fun hlt => line (exprValue_add hx hy) (Nat.cast_add u v).symm hlt
  case sub => exact fun hle => line (exprValue_sub hx hy) (Nat.cast_sub hle).symm ((Nat.sub_le u v).trans_lt hu)
  case mul => exact fun hlt => line (exprValue_mul hx hy) (Nat.cast_mul u v).symm hlt
  case div => exact fun hv0 => line (exprValue_div hx hy (Nat.cast_ne_zero.2 hv0)) hfloor hdiv
  case divNegNeg =>
    exact fun hv0 => line (exprValue_div (exprValue_neg hx) (exprValue_neg hy) (hneg hv0))
      ((Int.neg_fdiv_neg u v).trans hfloor) hdiv
  case divNeg =>
    refine fun hv0 => line (exprValue_neg (exprValue_div hx (exprValue_neg hy) (hneg hv0))) ?_
      ((ceilDiv_le_self hv0).trans_lt hu)
    rw [natCast_fdiv_neg hv0, neg_neg]
  case mod =>
    exact fun hv0 => line (exprValue_mod hx hy (by omega)) (Int.natCast_mod u v).symm ((Nat.mod_le u v).trans_lt hu)
  case add64 => exact line (exprValue_add64 hx hy) (by omega) (Nat.mod_lt _ (by decide))
  case carry64 =>
    exact line (exprValue_carry64 hx hy (fitsIn_of_lt hu) (fitsIn_of_lt hv)) (by split <;> omega) (by split <;> decide)
  case sub64 => exact line (exprValue_sub64 hx hy) (by omega) (Nat.mod_lt _ (by decide))
  case gcd => exact line (exprValue_gcd hx hy) (congrArg _ (Int.gcd_natCast_natCast u v)) (gcd_lt_of_lt hu hv)
  case zext => exact fun hlt => line (exprValue_zext hx (fitsIn_of_lt hlt)) rfl hu
end

section
/-! PROOFS. What one step does, constructor by constructor (R12, R32 to R34, R230): the inversion of `step` from which the
statements of 10_state.md follow. -/

namespace Sys2Proof.Machine

/-! ### Decoding a command word -/

/-- A word is its two CMD64 fields (R81). -/
theorem rsvd_append_opcode (w : Word) : ((cmdFields w).rsvd ++ (cmdFields w).opcode : BitVec 64) = w := by
  refine BitVec.eq_of_getLsbD_eq fun i hi => ?_
  simp only [cmdFields, BitVec.getLsbD_append, BitVec.getLsbD_extractLsb']
  split
  case isTrue => simp [*]
  case isFalse h => rw [Nat.add_sub_cancel' (by omega), decide_eq_true (by omega), Bool.true_and]

/-- A legal word has zero reserved bits and its command's opcode (R86). -/
theorem cmdFields_of_decode {w : Word} {i : Instr} (h : decode w = .ok i) :
    (cmdFields w).rsvd = 0 ∧ (cmdFields w).opcode = opcodeOf i := by
  simp only [decode] at h
  split at h
  case isTrue => cases h
  case isFalse hr =>
    refine ⟨not_not.mp hr, BitVec.eq_of_toNat_eq ?_⟩
    split at h <;> cases h <;> assumption

/-- Only a command's own word decodes to it (R83). -/
theorem eq_encode_of_decode {w : Word} {i : Instr} (h : decode w = .ok i) : w = encode i := by
  obtain ⟨hrsvd, hop⟩ := cmdFields_of_decode h
  rw [← rsvd_append_opcode w, hrsvd, hop]
  rfl

theorem checksModulus_eq_true_iff {i : Instr} : checksModulus i = true ↔ i ≠ .gcd := by
  cases i <;> decide

/-! ### The CMD write -/

theorem not_busy_of_idle {s : State} (h : s.fsm = .idle) : s.fsm ≠ .busy := by
  simp [h]

theorem cmdWrite_of_busy {w : Word} {s : State} (h : s.fsm = .busy) : cmdWrite w s = .next (dropCommand s) := by
  simp [cmdWrite, h]

theorem cmdWrite_of_illegal {w : Word} {s : State} {r : IllegalWord} (h : s.fsm = .idle) (hd : decode w = .error r) :
    cmdWrite w s = .next (raiseError .illegalCmd s) := by
  simp [cmdWrite, h, hd]

theorem cmdWrite_of_legal {w : Word} {s : State} {i : Instr} (h : s.fsm = .idle) (hd : decode w = .ok i) :
    cmdWrite w s = exec i s := by
  simp [cmdWrite, h, hd]

theorem exec_of_idle {i : Instr} {s : State} (h : s.fsm = .idle) : exec i s = .next (start i s) := by
  rw [exec_eq, processed_of_idle h]

/-- The outcome of a CMD write is a next state (R86, R204). -/
theorem exists_cmdWrite_next (w : Word) (s : State) : ∃ t, cmdWrite w s = .next t := by
  obtain ⟨-, h⟩ | ⟨-, -, h⟩ | ⟨-, i, -, h⟩ := cmdWrite_cases w s
  · exact ⟨_, h⟩
  · exact ⟨_, h⟩
  · exact ⟨_, h.trans (exec_eq i s)⟩

/-- The outcome of a register write is a next state: no register refuses one (R34). -/
theorem exists_writeReg_next (r : Option Reg) (v : Word) (s : State) : ∃ t, writeReg r v s = .next t := by
  match r with
  | some .cmd => exact exists_cmdWrite_next v s
  | some .opa | some .opb | some .opm | some .status | some .result | none => exact ⟨_, rfl⟩

/-! ### The moves -/

/-- The state with its first move taken, on which the move is then performed. -/
def State.taken (s : State) : State := { s with agenda := s.agenda.tail }

@[simp] theorem State.taken_opa (s : State) : s.taken.opa = s.opa := rfl
@[simp] theorem State.taken_opb (s : State) : s.taken.opb = s.opb := rfl
@[simp] theorem State.taken_opm (s : State) : s.taken.opm = s.opm := rfl
@[simp] theorem State.taken_result (s : State) : s.taken.result = s.result := rfl
@[simp] theorem State.taken_status (s : State) : s.taken.status = s.status := rfl
@[simp] theorem State.taken_fsm (s : State) : s.taken.fsm = s.fsm := rfl
@[simp] theorem State.taken_lat (s : State) : s.taken.lat = s.lat := rfl
@[simp] theorem State.taken_windowPage (s : State) : s.taken.windowPage = s.windowPage := rfl
@[simp] theorem State.taken_agenda (s : State) : s.taken.agenda = s.agenda.tail := rfl
@[simp] theorem State.taken_replies (s : State) : s.taken.replies = s.replies := rfl
@[simp] theorem State.taken_draws (s : State) : s.taken.draws = s.draws := rfl

theorem step_of_empty {s : State} (h : s.agenda = []) : step s = .next (engineTurn s) := by
  simp [step, h]

/-- A step performs the first move of the agenda on the state without it. -/
theorem step_of_head {s : State} {m : Move} (h : s.agenda.head? = some m) : step s = performMove m s.taken := by
  obtain ⟨rest, ha⟩ := List.head?_eq_some_iff.mp h
  simp [step, State.taken, ha]

/-- The ENGINE's step, come by its turn or by an empty agenda (log 2). -/
theorem step_of_engineNext {s : State} (h : EngineNext s) : step s = .next (engineTurn s.taken) := by
  obtain ha | ha := h
  · have hs : s.taken = s := by rw [State.taken, ha, List.tail_nil, ← ha]
    rw [step_of_empty ha, hs]
  · rw [step_of_head ha, performMove_engine]

/-- A write at a supported offset is a write of its register (R52). -/
theorem step_of_writesNext {s : State} {off : Nat} {v : Word} (h : WritesNext s off v) (hlt : off < 64) (hmod : off % 8 = 0) :
    step s = writeReg (regAt off) v s.taken := by
  rw [step_of_head h, performMove_host, hostAccess_write]
  exact atOffset_of_supported (s := s.taken) hlt hmod

/-- Everything a step to a next state can do: one constructor for each move, a CMD write having three. -/
inductive StepEffect (s : State) : State → Prop
  /-- The ENGINE completes the command in flight (R33). -/
  | completed (r : Word) (draws : Nat) (turn : EngineNext s) (busy : s.fsm = .busy) :
      StepEffect s (finish r (takeDraws draws s.taken))
  /-- An ENGINE turn while IDLE, or a write of a register that takes none (R34). -/
  | passed : StepEffect s s.taken
  /-- The RESET move (R230). -/
  | reset (move : ResetsNext s) : StepEffect s (resetBlock s.taken)
  /-- A host read, returning w (R34). -/
  | read (w : Word) : StepEffect s { s.taken with replies := w :: s.replies }
  /-- A host write of OPA (R21). -/
  | wroteOpa (v : Word) (move : WritesNext s 0x00 v) : StepEffect s { s.taken with opa := v }
  /-- A host write of OPB (R22). -/
  | wroteOpb (v : Word) (move : WritesNext s 0x08 v) : StepEffect s { s.taken with opb := v }
  /-- A host write of OPM (R23). -/
  | wroteOpm (v : Word) (move : WritesNext s 0x10 v) : StepEffect s { s.taken with opm := v }
  /-- A CMD write while BUSY (R204). -/
  | dropped (busy : s.fsm = .busy) : StepEffect s (dropCommand s.taken)
  /-- A CMD write that reports an error (R202, R203). -/
  | failed (c : ErrCode) (idle : s.fsm = .idle) (code : c ≠ .none) : StepEffect s (raiseError c s.taken)
  /-- A CMD write that is accepted (R32). -/
  | accepted (i : Instr) (idle : s.fsm = .idle) (modulus : checksModulus i = true → s.opm ≠ 0)
      (move : WritesNext s 0x18 (encode i)) : StepEffect s (accept i s.taken)

theorem stepEffect_of_engineTurn {s : State} (h : EngineNext s) : StepEffect s (engineTurn s.taken) := by
  cases hf : s.fsm with
  | busy =>
    obtain ⟨r, n, hc⟩ := complete_eq_finish s.taken
    rw [engineTurn_of_busy (s := s.taken) hf, hc]
    exact .completed r n h hf
  | idle =>
    rw [engineTurn_of_idle (s := s.taken) hf]
    exact .passed

theorem stepEffect_of_cmdWrite {s t : State} {w : Word} (hw : WritesNext s 0x18 w) (h : cmdWrite w s.taken = .next t) :
    StepEffect s t := by
  obtain ⟨hf, hc⟩ | ⟨hf, -, hc⟩ | ⟨hf, i, hd, hc⟩ := cmdWrite_cases w s.taken
  case inl =>
    cases hc.symm.trans h
    exact .dropped hf
  case inr.inl =>
    cases hc.symm.trans h
    exact .failed .illegalCmd hf (by decide)
  case inr.inr =>
    obtain ⟨hb, -⟩ | ⟨-, -, -, rfl⟩ | ⟨-, hm, rfl⟩ := exec_cases (hc.symm.trans h)
    · exact absurd hb (not_busy_of_idle hf)
    · exact .failed .modZero hf (by decide)
    · exact .accepted i hf hm (eq_encode_of_decode hd ▸ hw)

/-- The inversion of the step (R12, R60). -/
theorem stepEffect_of_step {s t : State} (h : step s = .next t) : StepEffect s t := by
  obtain ⟨he, rfl⟩ | ⟨hr, rfl⟩ | ⟨off, -, -, -, rfl⟩ | ⟨off, v, -, -, hw, hwrite⟩ := step_cases h
  case inl => exact stepEffect_of_engineTurn he
  case inr.inl => exact .reset hr
  case inr.inr.inl => exact .read _
  case inr.inr.inr =>
    obtain ⟨rfl, rfl⟩ | ⟨rfl, rfl⟩ | ⟨rfl, rfl⟩ | ⟨rfl, hc⟩ | ⟨-, rfl⟩ := writeReg_cases hwrite
    · exact .wroteOpa v hw
    · exact .wroteOpb v hw
    · exact .wroteOpm v hw
    · exact stepEffect_of_cmdWrite hw hc
    · exact .passed

/-! ### Reads -/

/-- The window's offset of each register (R20). -/
theorem regAt_eq_some_iff {off : Nat} {r : Reg} : regAt off = some r ↔ off = regOffset r := by
  constructor
  · intro h
    unfold regAt at h
    split at h <;> cases h <;> rfl
  · rintro rfl
    exact (Script.regAt_regOffset r).1

/-- What a read returns depends on the operands, and on STATUS and RESULT only where it reads them (R34). -/
theorem readReg_congr {r : Option Reg} {s t : State} (ha : t.opa = s.opa) (hb : t.opb = s.opb) (hm : t.opm = s.opm)
    (hstatus : r = some .status → t.status = s.status) (hresult : r = some .result → t.result = s.result) :
    readReg r t = readReg r s := by
  match r with
  | some .opa => exact ha
  | some .opb => exact hb
  | some .opm => exact hm
  | some .status => exact congrArg statusWord (hstatus rfl)
  | some .result => exact hresult rfl
  | some .cmd | none => rfl

end Sys2Proof.Machine
end

section
/-! PROOFS. The function units are exact (R100, R120, R140, R160, R180): each computes over 64-bit words what its rule says over
the natural numbers. -/

namespace Sys2Proof.Machine

theorem toNat_pos_of_ne_zero {m : Word} (hm : m ≠ 0) : 0 < m.toNat :=
  Nat.pos_of_ne_zero fun h => hm (BitVec.eq_of_toNat_eq h)

/-! ### The modular_adder (R101) -/

/-- The operand reduction of R101 is a remainder, whether or not it is skipped. -/
theorem toNat_reduced_operand (a m : Word) : (if m ≤ a then a % m else a).toNat = a.toNat % m.toNat := by
  split
  case isTrue => exact BitVec.toNat_umod
  case isFalse h => exact (Nat.mod_eq_of_lt (BitVec.not_le.mp h)).symm

/-- Subtracting m once where the 65-bit sum is at least m reduces the sum of two reduced operands. -/
theorem toNat_sum_reduced {a b m : Word} (ha : a.toNat < m.toNat) (hb : b.toNat < m.toNat) :
    (if carryOut a b = true ∨ m ≤ a + b then a + b - m else a + b).toNat =
      if m.toNat ≤ a.toNat + b.toNat then a.toNat + b.toNat - m.toNat else a.toNat + b.toNat := by
  have hm := m.isLt
  have hcond : (carryOut a b = true ∨ m ≤ a + b) ↔ m.toNat ≤ a.toNat + b.toNat := by
    rw [carryOut, decide_eq_true_iff, BitVec.le_def, BitVec.toNat_add]
    omega
  by_cases h : m.toNat ≤ a.toNat + b.toNat
  · rw [if_pos (hcond.mpr h), if_pos h, BitVec.toNat_sub, BitVec.toNat_add]
    omega
  · rw [if_neg (mt hcond.mp h), if_neg h, BitVec.toNat_add, Nat.mod_eq_of_lt (by omega)]

/-- The modular_adder is exact (R100). -/
theorem toNat_modadd64 (a b : Word) {m : Word} (hm : m ≠ 0) : (modadd64 a b m).toNat = (a.toNat + b.toNat) % m.toNat := by
  have hlt (x : Word) : (if m ≤ x then x % m else x).toNat < m.toNat := by
    rw [toNat_reduced_operand]
    exact Nat.mod_lt _ (toNat_pos_of_ne_zero hm)
  rw [modadd64, toNat_sum_reduced (hlt a) (hlt b), toNat_reduced_operand, toNat_reduced_operand]
  split
  case isTrue h =>
    rw [← Nat.add_mod_add_of_le_add_mod h, Nat.add_sub_cancel]
  case isFalse h => exact (Nat.add_mod_of_add_mod_lt (not_le.mp h)).symm

/-! ### The bits of a word, low bit first, as the two loops read them -/

/-- One more bit of a word. -/
theorem toNat_mod_two_pow_succ (w : Word) (i : Nat) :
    w.toNat % 2 ^ (i + 1) = w.toNat % 2 ^ i + if w.getLsbD i = true then 2 ^ i else 0 := by
  rw [Nat.mod_pow_succ, ← Nat.toNat_testBit, BitVec.testBit_toNat]
  cases w.getLsbD i <;> simp

/-! ### The modular_multiplier (R121 to R123) -/

/-- Where the path test of R121 holds, the product fits in 64 bits (R122). -/
theorem mul_lt_of_takesDirectPath {a b : Word} (h : takesDirectPath a b = true) : a.toNat * b.toNat < 2 ^ 64 := by
  obtain rfl | hlt := of_decide_eq_true h
  · simp
  · rw [BitVec.lt_def, BitVec.toNat_udiv] at hlt
    calc a.toNat * b.toNat ≤ a.toNat * (max64.toNat / a.toNat) := Nat.mul_le_mul_left _ hlt.le
      _ ≤ max64.toNat := Nat.mul_div_le _ _
      _ < 2 ^ 64 := max64.isLt

/-- The direct path is exact where the product fits (R122). -/
theorem toNat_modmulDirect {a b : Word} (h : a.toNat * b.toNat < 2 ^ 64) (m : Word) :
    (modmulDirect a b m).toNat = (a.toNat * b.toNat) % m.toNat := by
  rw [modmulDirect, BitVec.toNat_umod, BitVec.toNat_mul, Nat.mod_eq_of_lt h]

theorem doubleAddLoop_succ (a b m : Word) (n : Nat) :
    doubleAddLoop a b m (n + 1) = doubleAddStep b m (doubleAddLoop a b m n) n := by
  simp [doubleAddLoop, List.range_succ]

/-- The two invariants of the double-and-add loop (R124). -/
theorem toNat_doubleAddLoop (a b : Word) {m : Word} (hm : m ≠ 0) (n : Nat) :
    (doubleAddLoop a b m n).1.toNat = (a.toNat * (b.toNat % 2 ^ n)) % m.toNat ∧
    (doubleAddLoop a b m n).2.toNat = (a.toNat * 2 ^ n) % m.toNat := by
  induction n with
  | zero => simp [doubleAddLoop, Nat.mod_one]
  | succ n ih =>
    obtain ⟨hacc, hdbl⟩ := ih
    rw [doubleAddLoop_succ, doubleAddStep]
    constructor
    · rw [toNat_mod_two_pow_succ]
      split
      · rw [toNat_modadd64 _ _ hm, hacc, hdbl, ← Nat.add_mod, Nat.mul_add]
      · exact hacc
    · rw [toNat_modadd64 _ _ hm, hdbl, ← Nat.add_mod, pow_succ, ← Nat.mul_add, ← mul_two]

/-- The double-and-add path is exact (R123). -/
theorem toNat_modmulDoubleAdd (a b : Word) {m : Word} (hm : m ≠ 0) :
    (modmulDoubleAdd a b m).toNat = (a.toNat * b.toNat) % m.toNat := by
  rw [modmulDoubleAdd, (toNat_doubleAddLoop a b hm 64).1, Nat.mod_eq_of_lt b.isLt]

/-- The modular_multiplier is exact (R120). -/
theorem toNat_modmul64 (a b : Word) {m : Word} (hm : m ≠ 0) : (modmul64 a b m).toNat = (a.toNat * b.toNat) % m.toNat := by
  unfold modmul64
  split
  case isTrue h => exact toNat_modmulDirect (mul_lt_of_takesDirectPath h) m
  case isFalse => exact toNat_modmulDoubleAdd a b hm

/-! ### The modular_exponentiation_engine (R142) -/

theorem squareMultiplyLoop_succ (x e m : Word) (n : Nat) :
    squareMultiplyLoop x e m (n + 1) = squareMultiplyStep e m (squareMultiplyLoop x e m n) n := by
  simp [squareMultiplyLoop, List.range_succ]

/-- The two invariants of square-and-multiply (R143). -/
theorem toNat_squareMultiplyLoop (x e : Word) {m : Word} (hm : m ≠ 0) (n : Nat) :
    (squareMultiplyLoop x e m n).1.toNat = (x.toNat ^ (e.toNat % 2 ^ n)) % m.toNat ∧
    (squareMultiplyLoop x e m n).2.toNat = (x.toNat ^ (2 ^ n)) % m.toNat := by
  induction n with
  | zero => simp [squareMultiplyLoop, Nat.mod_one]
  | succ n ih =>
    obtain ⟨hproduct, hfactor⟩ := ih
    rw [squareMultiplyLoop_succ, squareMultiplyStep]
    constructor
    · rw [toNat_mod_two_pow_succ]
      split
      · rw [toNat_modmul64 _ _ hm, hproduct, hfactor, ← Nat.mul_mod, ← pow_add]
      · exact hproduct
    · rw [toNat_modmul64 _ _ hm, hfactor, ← Nat.mul_mod, ← pow_add, ← mul_two, ← pow_succ]

/-- The modular_exponentiation_engine is exact (R140). -/
theorem toNat_modpow64 (x e : Word) {m : Word} (hm : m ≠ 0) : (modpow64 x e m).toNat = (x.toNat ^ e.toNat) % m.toNat := by
  rw [modpow64, (toNat_squareMultiplyLoop x e hm 64).1, Nat.mod_eq_of_lt e.isLt]

/-! ### The extended_euclidean_gcd (R161) -/

theorem gcdLoop_zero_left (n : Nat) (b : Word) : gcdLoop n 0 b = b := by
  cases n <;> rfl

theorem gcdLoop_succ {a : Word} (ha : a ≠ 0) (n : Nat) (b : Word) : gcdLoop (n + 1) a b = gcdLoop n (b % a) a :=
  if_neg ha

/-- Euclid's loop on an ordered pair gives the gcd within n iterations, where an operand is below the Fibonacci number that an
operand needing one more iteration reaches (R162). -/
theorem toNat_gcdLoop_of_lt_fib {n : Nat} {a b : Word} (hab : a.toNat < b.toNat)
    (hfib : a.toNat < Nat.fib (n + 1) ∨ b.toNat < Nat.fib (n + 2)) :
    (gcdLoop n a b).toNat = Nat.gcd a.toNat b.toNat := by
  induction n generalizing a b with
  | zero =>
    have ha : a.toNat = 0 := by
      rw [zero_add, zero_add, Nat.fib_one, Nat.fib_two] at hfib
      omega
    rw [gcdLoop, ha, Nat.gcd_zero_left]
  | succ n ih =>
    obtain rfl | ha := eq_or_ne a 0
    · rw [gcdLoop_zero_left]
      exact (Nat.gcd_zero_left _).symm
    have hpos := toNat_pos_of_ne_zero ha
    have hlt : b.toNat % a.toNat < a.toNat := Nat.mod_lt _ hpos
    have hfib' : b.toNat % a.toNat < Nat.fib (n + 1) ∨ a.toNat < Nat.fib (n + 2) := by
      have hdrop : b.toNat % a.toNat + a.toNat ≤ b.toNat :=
        calc b.toNat % a.toNat + a.toNat
          _ ≤ b.toNat % a.toNat + a.toNat * (b.toNat / a.toNat) :=
            Nat.add_le_add_left (Nat.le_mul_of_pos_right _ (Nat.div_pos hab.le hpos)) _
          _ = b.toNat := Nat.mod_add_div _ _
      change a.toNat < Nat.fib (n + 2) ∨ b.toNat < Nat.fib (n + 3) at hfib
      have hsum : Nat.fib (n + 3) = Nat.fib (n + 1) + Nat.fib (n + 2) := Nat.fib_add_two
      omega
    rw [← BitVec.toNat_umod] at hlt hfib'
    rw [gcdLoop_succ ha, ih hlt hfib', BitVec.toNat_umod, ← Nat.gcd_rec]

/-- A 64-bit operand is below the 94th Fibonacci number and all later ones (R162). -/
theorem toNat_lt_fib {n : Nat} (hn : 94 ≤ n) (w : Word) : w.toNat < Nat.fib n :=
  calc w.toNat < 2 ^ 64 := w.isLt
    _ ≤ Nat.fib 94 := by norm_num
    _ ≤ Nat.fib n := Nat.fib_mono hn

/-- On an ordered pair 92 iterations are enough for 64-bit operands. -/
theorem toNat_gcdLoop_of_lt {n : Nat} (hn : 92 ≤ n) {a b : Word} (hab : a.toNat < b.toNat) :
    (gcdLoop n a b).toNat = Nat.gcd a.toNat b.toNat :=
  toNat_gcdLoop_of_lt_fib hab (.inr (toNat_lt_fib (by omega) b))

/-- On any pair 93 iterations are: the first one orders it (R162). -/
theorem toNat_gcdLoop {n : Nat} (hn : 93 ≤ n) (a b : Word) : (gcdLoop n a b).toNat = Nat.gcd a.toNat b.toNat := by
  obtain ⟨k, rfl⟩ : ∃ k, n = k + 1 := ⟨n - 1, by omega⟩
  obtain rfl | ha := eq_or_ne a 0
  · rw [gcdLoop_zero_left]
    exact (Nat.gcd_zero_left _).symm
  · have hlt : (b % a).toNat < a.toNat := BitVec.toNat_umod ▸ Nat.mod_lt _ (toNat_pos_of_ne_zero ha)
    rw [gcdLoop_succ ha, toNat_gcdLoop_of_lt (by omega) hlt, BitVec.toNat_umod, ← Nat.gcd_rec]

/-- The extended_euclidean_gcd is exact (R160). -/
theorem toNat_gcd64 (a b : Word) : (gcd64 a b).toNat = Nat.gcd a.toNat b.toNat :=
  toNat_gcdLoop (by decide) a b

/-! ### The modular_inverse_unit (R183) -/

/-- The remainder as R183 computes it. -/
theorem sub_udiv_mul_eq_umod (x y : Word) : x - (x / y) * y = x % y := by
  rw [sub_eq_iff_eq_add]
  refine BitVec.eq_of_toNat_eq ?_
  rw [BitVec.toNat_add, BitVec.toNat_mul, BitVec.toNat_umod, BitVec.toNat_udiv, Nat.add_mod_mod, Nat.mod_add_div',
    Nat.mod_eq_of_lt x.isLt]

/-- The remainders of the extended loop are those of Euclid's loop. -/
theorem euclidLoop_fst (n : Nat) (r0 r1 : Word) (t0 t1 : Int) : (euclidLoop n r0 r1 t0 t1).1 = gcdLoop n r1 r0 := by
  induction n generalizing r0 r1 t0 t1 with
  | zero => rfl
  | succ n ih =>
    rw [euclidLoop, gcdLoop]
    split
    · rfl
    · rw [ih, sub_udiv_mul_eq_umod]

/-- The coefficients keep t * e congruent to their remainder modulo phi, the invariant of R183. -/
theorem euclidLoop_snd_modEq {e phi : Int} (n : Nat) {r0 r1 : Word} {t0 t1 : Int} (h0 : t0 * e ≡ r0.toNat [ZMOD phi])
    (h1 : t1 * e ≡ r1.toNat [ZMOD phi]) :
    (euclidLoop n r0 r1 t0 t1).2 * e ≡ (euclidLoop n r0 r1 t0 t1).1.toNat [ZMOD phi] := by
  induction n generalizing r0 r1 t0 t1 with
  | zero => exact h0
  | succ n ih =>
    rw [euclidLoop]
    split
    · exact h0
    · refine ih h1 ?_
      have hrem : ((r0 - (r0 / r1) * r1).toNat : Int) = r0.toNat - (r0 / r1).toNat * r1.toNat := by
        rw [sub_udiv_mul_eq_umod, BitVec.toNat_umod, BitVec.toNat_udiv, Int.natCast_mod, Int.emod_def, Int.natCast_ediv, mul_comm]
      rw [hrem, sub_mul, mul_assoc]
      exact h0.sub (h1.mul_left _)

/-- The unit's run of its loop: the last remainder and its coefficient. -/
def inverseRun (e phi : Word) : Word × Int := euclidLoop euclidFuel phi (e % phi) 0 1

theorem modinvFound_eq (e phi : Word) :
    modinvFound e phi =
      if (inverseRun e phi).1 = 1 then some (BitVec.ofInt 64 ((inverseRun e phi).2 % phi.toNat)) else none := rfl

/-- The last remainder of the extended loop is the gcd (R183). -/
theorem toNat_inverseRun_fst (e : Word) {phi : Word} (hphi : phi ≠ 0) :
    (inverseRun e phi).1.toNat = Nat.gcd e.toNat phi.toNat := by
  have hlt : (e % phi).toNat < phi.toNat := BitVec.toNat_umod ▸ Nat.mod_lt _ (toNat_pos_of_ne_zero hphi)
  rw [inverseRun, euclidLoop_fst, toNat_gcdLoop_of_lt (by decide) hlt, BitVec.toNat_umod, ← Nat.gcd_rec, Nat.gcd_comm]

/-- The unit finds a value exactly where e and phi are coprime (R182). -/
theorem exists_modinvFound_iff {e phi : Word} (hphi : phi ≠ 0) :
    (∃ d, modinvFound e phi = some d) ↔ Nat.gcd e.toNat phi.toNat = 1 := by
  have hone : (inverseRun e phi).1 = 1 ↔ Nat.gcd e.toNat phi.toNat = 1 := by
    rw [← toNat_inverseRun_fst e hphi]
    exact BitVec.toNat_inj.symm
  rw [modinvFound_eq, ← hone]
  split
  case isTrue h => exact iff_of_true ⟨_, rfl⟩ h
  case isFalse h => exact iff_of_false (by simp) h

/-- The final coefficient times e is the gcd modulo phi (R183). -/
theorem inverseRun_snd_mul_modEq (e phi : Word) :
    (inverseRun e phi).2 * e.toNat ≡ (inverseRun e phi).1.toNat [ZMOD phi.toNat] := by
  refine euclidLoop_snd_modEq euclidFuel ?_ ?_
  · simp [Int.ModEq]
  · simp [Int.ModEq]

/-- The normalisation of R183 takes a coefficient into [0, phi). -/
theorem toNat_normalised (t : Int) {phi : Word} (hphi : phi ≠ 0) :
    ((BitVec.ofInt 64 (t % phi.toNat)).toNat : Int) = t % phi.toNat := by
  have hpos := toNat_pos_of_ne_zero hphi
  have hphi' := phi.isLt
  have h0 : 0 ≤ t % phi.toNat := Int.emod_nonneg _ (by omega)
  have hlt : t % phi.toNat < phi.toNat := Int.emod_lt_of_pos _ (by omega)
  rw [BitVec.toNat_ofInt]
  generalize t % (phi.toNat : Int) = r at *
  omega

/-- The value found is below phi and is the inverse of e (R180). -/
theorem modinvFound_isInverse {e phi d : Word} (hphi : phi ≠ 0) (h : modinvFound e phi = some d) :
    d.toNat < phi.toNat ∧ (d.toNat * e.toNat) % phi.toNat = 1 % phi.toNat := by
  have hpos := toNat_pos_of_ne_zero hphi
  rw [modinvFound_eq] at h
  split at h
  case isFalse => cases h
  case isTrue hone =>
    have hmod := inverseRun_snd_mul_modEq e phi
    rw [hone] at hmod
    cases h
    constructor
    · have hlt := Int.emod_lt_of_pos (inverseRun e phi).2 (Int.natCast_pos.mpr hpos)
      rw [← toNat_normalised _ hphi] at hlt
      exact Int.ofNat_lt.mp hlt
    · refine Int.natCast_modEq_iff.mp ?_
      rw [Nat.cast_mul, toNat_normalised _ hphi]
      exact ((Int.mod_modEq _ _).mul_right _).trans hmod

/-! ### The completion -/

/-- The completion writes the exact result of the latched command (R33, R84). -/
theorem isResultOf_complete {s : State} (hm : checksModulus s.lat.op = true → s.lat.m ≠ 0) :
    IsResultOf s.lat (complete s).result := by
  cases hop : s.lat.op with
  | modadd =>
    simp only [IsResultOf, complete, hop]
    exact toNat_modadd64 _ _ (hm (congrArg checksModulus hop))
  | modmul =>
    simp only [IsResultOf, complete, hop]
    exact toNat_modmul64 _ _ (hm (congrArg checksModulus hop))
  | modpow =>
    simp only [IsResultOf, complete, hop]
    exact toNat_modpow64 _ _ (hm (congrArg checksModulus hop))
  | gcd =>
    simp only [IsResultOf, complete, hop]
    exact toNat_gcd64 _ _
  | modinv =>
    simp only [IsResultOf, complete, hop]
    intro hcoprime
    have hphi : s.lat.m ≠ 0 := hm (congrArg checksModulus hop)
    obtain ⟨d, hd⟩ := (exists_modinvFound_iff hphi).mpr hcoprime
    have hresult : (completeModinv s).result = d := by simp only [completeModinv, hd, finish_result]
    rw [hresult]
    exact modinvFound_isInverse hphi hd

end Sys2Proof.Machine
end

section
/-! PROOFS. The statements of 10_state.md: registers and host accesses, the CMD write, frames and invariants. -/

namespace Sys2Proof.Machine

/-! ### The STATUS word -/

/-- The layout of the STATUS word, one bit at a time (R25). -/
theorem statusWord_getLsbD (t : Status) (i : Nat) :
    (statusWord t).getLsbD i =
      match i with
      | 0 => t.busy
      | 1 => t.done
      | 2 => t.err
      | 3 => t.dropped
      | n + 4 => (errCodeBits t.errcode).getLsbD n := by
  simp only [statusWord, BitVec.getLsbD_append, BitVec.getLsbD_ofBool, BitVec.getLsbD_zero]
  match i with
  | 0 | 1 | 2 | 3 => simp
  | n + 4 => simpa using BitVec.lt_of_getLsbD

/-- ERRCODE is in bits 7:4 of STATUS (R25). -/
theorem statusWord_errcode_bits (t : Status) : (statusWord t).extractLsb' 4 4 = errCodeBits t.errcode := by
  refine BitVec.eq_of_getLsbD_eq fun i hi => ?_
  rw [BitVec.getLsbD_extractLsb', decide_eq_true hi, Bool.true_and, Nat.add_comm 4 i, statusWord_getLsbD]

/-- Bits 63:8 of STATUS read as 0 (R25). -/
theorem statusWord_reserved_bits (t : Status) : (statusWord t).extractLsb' 8 56 = 0 := by
  refine BitVec.eq_of_getLsbD_eq fun i hi => ?_
  rw [BitVec.getLsbD_extractLsb', show 8 + i = (4 + i) + 4 by omega, statusWord_getLsbD]
  simp [BitVec.getLsbD_of_ge]

/-! ### The host's CMD write as a fetched word -/

/-- The word given to `withFetchWord` is a host write of CMD (R64; log 11). -/
theorem withFetchWord_eq_hostWrites (s : State) (w : Word) : s.withFetchWord 64 w.toNat = s.hostWrites 0x18 w := by
  have hw : tableWord 64 w.toNat = w := by
    rw [tableWord, Nat.mod_eq_of_lt w.isLt, BitVec.ofNat_toNat, BitVec.setWidth_eq]
  rw [State.withFetchWord, hw]
  rfl

/-! ### Each effect keeps the invariant -/

theorem inv_finish {r : Word} {s : State} (h : Inv s) : Inv (finish r s) := by
  obtain ⟨⟨-, herr, -⟩, -, -⟩ := h
  exact ⟨⟨nofun, herr, fun _ => rfl⟩, ⟨nofun, nofun⟩, nofun⟩

theorem inv_raiseError {c : ErrCode} {s : State} (hf : s.fsm = .idle) (hc : c ≠ .none) : Inv (raiseError c s) := by
  simp [Inv, StatusOk, BusyIsFsm, LatchOk, statusError, hf, hc]

theorem inv_accept {i : Instr} {s : State} (hm : checksModulus i = true → s.opm ≠ 0) : Inv (accept i s) := by
  simpa [Inv, StatusOk, BusyIsFsm, LatchOk, statusAccepted, capture] using hm

theorem inv_resetBlock (s : State) : Inv (resetBlock s) := by
  simp [Inv, StatusOk, BusyIsFsm, LatchOk, statusReset]

/-! ### An idle latch -/

/-- The same state with another latch. -/
def State.withLatch (s : State) (l : Latch) : State := { s with lat := l }

theorem equalButIdleLatch_withLatch {s : State} (h : s.fsm = .idle) (l : Latch) : EqualButIdleLatch s (s.withLatch l) :=
  .inr ⟨h, rfl⟩

theorem outcomesAgree_refl (o : Host.Outcome State Fault Refusal) : OutcomesAgree EqualButIdleLatch o o := by
  cases o with
  | next s => exact .inl rfl
  | fault r => rfl
  | refused r => rfl

/-- An acceptance overwrites the whole latch, and no other processing of a command reads it (R30). -/
theorem start_withLatch_agree (i : Instr) {s : State} (h : s.fsm = .idle) (l : Latch) :
    EqualButIdleLatch (start i s) (start i (s.withLatch l)) := by
  by_cases hc : checksModulus i = true ∧ s.opm = 0
  · rw [start, start, if_pos hc, if_pos (show _ ∧ (s.withLatch l).opm = 0 from hc)]
    exact .inr ⟨h, rfl⟩
  · rw [start, start, if_neg hc, if_neg (show ¬ (_ ∧ (s.withLatch l).opm = 0) from hc)]
    exact .inl rfl

theorem cmdWrite_withLatch_agree (w : Word) {s : State} (h : s.fsm = .idle) (l : Latch) :
    OutcomesAgree EqualButIdleLatch (cmdWrite w s) (cmdWrite w (s.withLatch l)) := by
  have h' : (s.withLatch l).fsm = .idle := h
  cases hd : decode w with
  | error r =>
    rw [cmdWrite_of_illegal h hd, cmdWrite_of_illegal h' hd]
    exact .inr ⟨h, rfl⟩
  | ok i =>
    rw [cmdWrite_of_legal h hd, cmdWrite_of_legal h' hd, exec_of_idle h, exec_of_idle h']
    exact start_withLatch_agree i h l

theorem writeReg_withLatch_agree (r : Option Reg) (v : Word) {s : State} (h : s.fsm = .idle) (l : Latch) :
    OutcomesAgree EqualButIdleLatch (writeReg r v s) (writeReg r v (s.withLatch l)) := by
  match r with
  | some .cmd => exact cmdWrite_withLatch_agree v h l
  | some .opa | some .opb | some .opm | some .status | some .result | none => exact .inr ⟨h, rfl⟩

/-- Whether an access is performed, and at which offset, does not depend on the latch (R50, R52). -/
theorem atOffset_withLatch_agree {addr bytes : Nat} {act : Nat → State → Host.Outcome State Fault Refusal} {s : State}
    {l : Latch}
    (h : ∀ off, OutcomesAgree EqualButIdleLatch (act off s) (act off (s.withLatch l))) :
    OutcomesAgree EqualButIdleLatch (atOffset addr bytes act s) (atOffset addr bytes act (s.withLatch l)) := by
  have hw : inWindow (s.withLatch l) addr = inWindow s addr := rfl
  have hb : modcoreBase (s.withLatch l) = modcoreBase s := rfl
  unfold atOffset
  rw [hw, hb]
  split
  · split
    · exact h _
    · exact outcomesAgree_refl (.fault _)
  · exact outcomesAgree_refl (.refused _)

theorem hostAccess_withLatch_agree (a : Access) {s : State} (h : s.fsm = .idle) (l : Latch) :
    OutcomesAgree EqualButIdleLatch (hostAccess a s) (hostAccess a (s.withLatch l)) := by
  cases a with
  | read addr bytes =>
    rw [hostAccess_read, hostAccess_read]
    refine atOffset_withLatch_agree fun off => .inr ⟨h, ?_⟩
    rw [readReg_congr (t := s.withLatch l) rfl rfl rfl (fun _ => rfl) (fun _ => rfl)]
    rfl
  | write addr bytes v => exact atOffset_withLatch_agree fun off => writeReg_withLatch_agree _ v h l

theorem engineTurn_withLatch_agree {s : State} (h : s.fsm = .idle) (l : Latch) :
    EqualButIdleLatch (engineTurn s) (engineTurn (s.withLatch l)) := by
  rw [engineTurn_of_idle h, engineTurn_of_idle (s := s.withLatch l) h]
  exact equalButIdleLatch_withLatch h l

theorem performMove_withLatch_agree (m : Move) {s : State} (h : s.fsm = .idle) (l : Latch) :
    OutcomesAgree EqualButIdleLatch (performMove m s) (performMove m (s.withLatch l)) := by
  cases m with
  | host a => exact hostAccess_withLatch_agree a h l
  | engine => exact engineTurn_withLatch_agree h l
  | reset => exact .inl rfl

theorem step_withLatch_agree {s : State} (h : s.fsm = .idle) (l : Latch) :
    OutcomesAgree EqualButIdleLatch (step s) (step (s.withLatch l)) := by
  cases ha : s.agenda with
  | nil =>
    rw [step_of_empty ha, step_of_empty (s := s.withLatch l) ha]
    exact engineTurn_withLatch_agree h l
  | cons m rest =>
    have hm : s.agenda.head? = some m := by rw [ha, List.head?_cons]
    rw [step_of_head hm, step_of_head (s := s.withLatch l) hm]
    exact performMove_withLatch_agree m (s := s.taken) h l

end Sys2Proof.Machine

open Sys2Proof Sys2Proof.Machine

/-! ### What every step keeps, and what no step shows (R26, R30, R31, R39) -/

/-- Settles O52, by the effect of the step: reads, operand writes and drops leave all that Inv speaks of but DROPPED, and each
other effect establishes it. -/
theorem everyStepKeepsTheStatusInvariants : Obligations.EveryStepKeepsTheStatusInvariants := by
  intro s t hinv hstep
  cases stepEffect_of_step hstep with
  | completed r draws => exact inv_finish hinv
  | reset => exact inv_resetBlock _
  | failed c idle code => exact inv_raiseError idle code
  | accepted i idle modulus => exact inv_accept modulus
  | passed | read | wroteOpa | wroteOpb | wroteOpm | dropped => exact hinv

/-- Settles O55: the idle latch is carried along by every move, until an acceptance or RESET writes it whole. -/
theorem idleLatchCannotBeObserved : Obligations.IdleLatchCannotBeObserved := by
  rintro s s' (rfl | ⟨hidle, hs'⟩)
  · exact outcomesAgree_refl _
  · rw [hs']
    exact step_withLatch_agree hidle _

/-! ### The CMD write, the completion, and what changes each register (R26 to R33, R38) -/

/-- Settles O15, one case of R32 for each clause. -/
theorem cmdWriteFollowsItsRule : Obligations.CmdWriteFollowsItsRule := by
  intro s w
  have hstep : step (s.hostWrites 0x18 w) = cmdWrite w s := step_hostWrites (by decide) (by decide)
  rw [hstep]
  refine ⟨cmdWrite_of_busy, fun hidle hillegal => ?_, fun i hidle hd hi hm => ?_, fun i hidle hd him => ?_⟩
  · cases hd : decode w with
    | error r => exact cmdWrite_of_illegal hidle hd
    | ok i => exact absurd hd (hillegal i)
  · rw [cmdWrite_of_legal hidle hd, exec_of_idle hidle, start_of_zero (checksModulus_eq_true_iff.mpr hi) hm]
    rfl
  · rw [cmdWrite_of_legal hidle hd, exec_of_idle hidle]
    obtain rfl | hm := him
    · exact congrArg _ (start_of_unchecked rfl)
    · exact congrArg _ (start_of_nonzero hm)

/-- Settles O40: a drop and an error change only STATUS, and an acceptance only STATUS, fsm and the latch. -/
theorem cmdWriteFrame : Obligations.CmdWriteFrame := by
  intro i s t hexec
  have reads {u : State} (ha : u.opa = s.opa) (hb : u.opb = s.opb) (hm : u.opm = s.opm) (hr : u.result = s.result)
      (off : Nat) (hoff : off ≠ 0x20) : readReg (regAt off) u = readReg (regAt off) s :=
    readReg_congr ha hb hm (fun h => absurd (regAt_eq_some_iff.mp h) hoff) (fun _ => hr)
  obtain ⟨hbusy, rfl⟩ | ⟨hidle, -, -, rfl⟩ | ⟨hidle, -, rfl⟩ := exec_cases hexec
  · exact ⟨rfl, rfl, rfl, rfl, rfl, rfl, rfl, rfl, reads rfl rfl rfl rfl, fun _ => rfl, fun _ _ => rfl⟩
  · exact ⟨rfl, rfl, rfl, rfl, rfl, rfl, rfl, rfl, reads rfl rfl rfl rfl,
      fun hbusy => absurd hbusy (not_busy_of_idle hidle), fun _ _ => rfl⟩
  · exact ⟨rfl, rfl, rfl, rfl, rfl, rfl, rfl, rfl, reads rfl rfl rfl rfl,
      fun hbusy => absurd hbusy (not_busy_of_idle hidle), nofun⟩

/-- Settles O41: from BUSY the completion is `finish` of some value after some draws, and from IDLE nothing happens. -/
theorem completionFrame : Obligations.CompletionFrame := by
  intro s t hturn hstep
  rw [step_of_engineNext hturn] at hstep
  cases hstep
  cases hf : s.fsm with
  | idle =>
    rw [engineTurn_of_idle (s := s.taken) hf]
    exact ⟨rfl, rfl, rfl, rfl, rfl, rfl, rfl, rfl, rfl, fun _ _ _ => rfl, nofun, fun _ => by rw [← hf]; rfl⟩
  | busy =>
    obtain ⟨r, n, hcomplete⟩ := complete_eq_finish s.taken
    rw [engineTurn_of_busy (s := s.taken) hf, hcomplete]
    have reads (off : Nat) (hstatus : off ≠ 0x20) (hresult : off ≠ 0x28) :
        readReg (regAt off) (finish r (takeDraws n s.taken)) = readReg (regAt off) s :=
      readReg_congr rfl rfl rfl (fun h => absurd (regAt_eq_some_iff.mp h) hstatus)
        (fun h => absurd (regAt_eq_some_iff.mp h) hresult)
    exact ⟨rfl, rfl, rfl, rfl, rfl, rfl, rfl, rfl, rfl, reads, fun _ => ⟨rfl, rfl, rfl⟩, nofun⟩

/-- Settles O42: of the effects of a step, only a completion and RESET write RESULT. -/
theorem resultChangesOnlyByCompletionOrReset : Obligations.ResultChangesOnlyByCompletionOrReset := by
  intro s t hstep hne
  cases stepEffect_of_step hstep with
  | completed r draws turn busy => exact .inl ⟨busy, turn⟩
  | reset move => exact .inr move
  | passed | read | wroteOpa | wroteOpb | wroteOpm | dropped | failed | accepted => exact absurd rfl hne

/-- Settles O44: each operand register is written by its own host write and by RESET, and by no other effect of a step. -/
theorem operandsChangeOnlyByTheirWrites : Obligations.OperandsChangeOnlyByTheirWrites := by
  intro s t hstep
  cases stepEffect_of_step hstep with
  | reset move => exact ⟨fun _ => .inr move, fun _ => .inr move, fun _ => .inr move⟩
  | wroteOpa v move => exact ⟨fun _ => .inl ⟨v, move⟩, absurd rfl, absurd rfl⟩
  | wroteOpb v move => exact ⟨absurd rfl, fun _ => .inl ⟨v, move⟩, absurd rfl⟩
  | wroteOpm v move => exact ⟨absurd rfl, absurd rfl, fun _ => .inl ⟨v, move⟩⟩
  | completed | passed | read | dropped | failed | accepted => exact ⟨absurd rfl, absurd rfl, absurd rfl⟩

/-- Settles O45: of the effects of a step, only an acceptance and RESET write the latch. -/
theorem latchWrittenOnlyByAcceptance : Obligations.LatchWrittenOnlyByAcceptance := by
  intro s t hstep hne
  cases stepEffect_of_step hstep with
  | reset move => exact .inr move
  | accepted i idle modulus move => exact .inl ⟨idle, rfl, i, move, rfl⟩
  | completed | passed | read | wroteOpa | wroteOpb | wroteOpm | dropped | failed => exact absurd rfl hne

/-- Settles O46: an acceptance enters BUSY, a completion and RESET leave it, and no other effect of a step writes fsm. -/
theorem busyEnteredAndLeftAsStated : Obligations.BusyEnteredAndLeftAsStated := by
  intro s t hstep
  have kept (ht : t.fsm = s.fsm) : (s.fsm = .idle → t.fsm = .busy → ∃ i, WritesNext s 0x18 (encode i)) ∧
      (s.fsm = .busy → t.fsm = .idle → EngineNext s ∨ ResetsNext s) :=
    ⟨fun hidle hbusy => absurd (ht ▸ hbusy) (not_busy_of_idle hidle),
      fun hbusy hidle => absurd hbusy (not_busy_of_idle (ht ▸ hidle))⟩
  cases stepEffect_of_step hstep with
  | completed r draws turn busy => exact ⟨nofun, fun _ _ => .inl turn⟩
  | reset move => exact ⟨nofun, fun _ _ => .inr move⟩
  | accepted i idle modulus move => exact ⟨fun _ _ => ⟨i, move⟩, nofun⟩
  | passed | read | wroteOpa | wroteOpb | wroteOpm | dropped | failed => exact kept rfl

/-- Settles O47: a completion and an error set DONE, an acceptance BUSY, and every other effect but RESET keeps both. -/
theorem neitherBusyNorDoneOnlyAfterReset : Obligations.NeitherBusyNorDoneOnlyAfterReset := by
  constructor
  · intro s t hstep hreset hset
    cases stepEffect_of_step hstep with
    | completed => exact .inr rfl
    | failed => exact .inr rfl
    | accepted => exact .inl rfl
    | reset move => exact absurd move hreset
    | passed | read | wroteOpa | wroteOpb | wroteOpm | dropped => exact hset
  · rintro s t hstep hidle ⟨w, hw⟩
    rw [step_of_writesNext hw (by decide) (by decide)] at hstep
    obtain ⟨hbusy, -⟩ | ⟨-, -, hc⟩ | ⟨-, i, -, hc⟩ := cmdWrite_cases w s.taken
    · exact absurd hbusy (not_busy_of_idle hidle)
    · cases hc.symm.trans hstep
      exact .inr rfl
    · obtain ⟨hbusy, -⟩ | ⟨-, -, -, rfl⟩ | ⟨-, -, rfl⟩ := exec_cases (hc.symm.trans hstep)
      · exact absurd hbusy (not_busy_of_idle hidle)
      · exact .inr rfl
      · exact .inl rfl

/-! ### Registers and host accesses, dispatch, and reset (R20 to R25, R34, R39) -/

/-- Settles O6: the values of `State.reset`, read off. -/
theorem resetStateHoldsTheSpecValues : Obligations.ResetStateHoldsTheSpecValues :=
  ⟨rfl, rfl, rfl, rfl, rfl, rfl, rfl, rfl, rfl, rfl, rfl, rfl⟩

/-- Settles O8: a write at an operand's offset sets that register, and a read there returns it. -/
theorem operandWritesSetTheRegister : Obligations.OperandWritesSetTheRegister := by
  intro s v
  have write {off : Nat} (hlt : off < 64) (hmod : off % 8 = 0) := step_hostWrites (s := s) (v := v) hlt hmod
  have read {off : Nat} {t u : State} (hlt : off < 64) (hmod : off % 8 = 0) (hu : writeReg (regAt off) v s = .next u)
      (hv : readReg (regAt off) u = v) (ht : step (s.hostWrites off v) = .next t) :
      step (t.hostReads off) = .next { t with replies := v :: t.replies } := by
    rw [write hlt hmod, hu] at ht
    cases ht
    rw [step_hostReads hlt hmod, hv]
  refine ⟨write (by decide) (by decide), write (by decide) (by decide), write (by decide) (by decide),
    fun t => read (by decide) (by decide) rfl rfl, fun t => read (by decide) (by decide) rfl rfl,
    fun t => read (by decide) (by decide) rfl rfl, fun off hoff => ?_⟩
  simp only [List.mem_cons, List.not_mem_nil, or_false] at hoff
  obtain rfl | rfl | rfl := hoff <;> exact ⟨_, step_hostReads (by decide) (by decide), rfl⟩

/-- Settles O9: the access at each offset is that of its register (R34). -/
theorem otherHostAccessEffects : Obligations.OtherHostAccessEffects := by
  intro s v
  have write {off : Nat} (hlt : off < 64) (hmod : off % 8 = 0) := step_hostWrites (s := s) (v := v) hlt hmod
  have read {off : Nat} (hlt : off < 64) (hmod : off % 8 = 0) := step_hostReads (s := s) hlt hmod
  refine ⟨write ?_ ?_, write ?_ ?_, write ?_ ?_, write ?_ ?_, write ?_ ?_, write ?_ ?_, write ?_ ?_, read ?_ ?_, read ?_ ?_,
    read ?_ ?_, read ?_ ?_, read ?_ ?_, read ?_ ?_, read ?_ ?_, read ?_ ?_⟩ <;> decide

/-- Settles O10, bit by bit of the word R25 lays out. -/
theorem statusWordBits : Obligations.StatusWordBits := by
  intro t
  refine ⟨?busy, ?done, ?err, ?dropped, statusWord_reserved_bits t, ?noError, ?illegalCmd, ?modZero⟩
  case busy | done | err | dropped => rw [statusWord_getLsbD]
  case noError | illegalCmd | modZero =>
    intro h
    rw [statusWord_errcode_bits, h]
    rfl

/-- Settles O49: a CMD write of a legal word is the command's own effect, and the fetched word is such a write. -/
theorem stepRunsTheDecodedCommand : Obligations.StepRunsTheDecodedCommand := by
  intro s w i hd
  have hstep : step (s.hostWrites 0x18 w) = cmdWrite w s := step_hostWrites (by decide) (by decide)
  rw [withFetchWord_eq_hostWrites, hstep]
  exact ⟨fun hidle => cmdWrite_of_legal hidle hd, fun hidle => cmdWrite_of_legal hidle hd, cmdWrite_of_busy⟩

/-- Settles O50: the ENGINE's turn, by fsm, come by its move or by an empty agenda. -/
theorem engineTurnIsCompletion : Obligations.EngineTurnIsCompletion := by
  intro s
  rw [step_nextMove, performMove_engine]
  refine ⟨fun hbusy => ?_, fun hidle => ?_, fun ha hbusy => ?_, fun ha hidle => ?_⟩
  · rw [engineTurn_of_busy hbusy]
  · rw [engineTurn_of_idle hidle]
  · rw [step_of_empty ha, engineTurn_of_busy hbusy]
  · rw [step_of_empty ha, engineTurn_of_idle hidle]

/-- Settles O51: at reset nothing is in flight, DONE is 0 and no move is to come. -/
theorem invariantsHoldAtReset : Obligations.InvariantsHoldAtReset :=
  ⟨⟨⟨nofun, ⟨nofun, absurd rfl⟩, nofun⟩, ⟨nofun, nofun⟩, nofun⟩, nofun, nofun⟩

end

section
/-! PROOFS. Host accesses leave a command in flight as it is, however many come (R30, R61 item 2, R243). -/

namespace Sys2Proof.Machine

/-- An aligned 8-byte access inside the window goes on to its offset (R52). -/
theorem exists_atOffset_next {addr bytes : Nat} {act : Nat → State → Host.Outcome State Fault Refusal} {s : State}
    (hform : bytes = 8 ∧ addr % 8 = 0) (hwindow : modcoreBase s ≤ addr ∧ addr < modcoreBase s + 64)
    (hact : ∀ off, ∃ t, act off s = .next t) : ∃ t, atOffset addr bytes act s = .next t := by
  rw [atOffset, if_pos (supportedForm_iff.mpr hform), if_pos (inWindow_iff.mpr hwindow)]
  exact hact _

/-- A supported access is performed: its outcome is a next state (R52). -/
theorem exists_hostAccess_next {s : State} {a : Access} (h : Supported s a) : ∃ t, hostAccess a s = .next t := by
  obtain ⟨hwidth, halign, hwindow⟩ := h
  cases a with
  | read addr bytes =>
    rw [hostAccess_read]
    exact exists_atOffset_next ⟨hwidth, halign⟩ hwindow fun off => ⟨_, rfl⟩
  | write addr bytes v => exact exists_atOffset_next ⟨hwidth, halign⟩ hwindow fun off => exists_writeReg_next _ v s

/-- Every step takes one move and leaves the window's address (R51, R60). -/
theorem StepEffect.agenda_windowPage {s t : State} (h : StepEffect s t) :
    t.agenda = s.agenda.tail ∧ t.windowPage = s.windowPage := by
  cases h <;> exact ⟨rfl, rfl⟩

/-- The command in flight in s is in flight in t: BUSY, with the same latch, and RESULT not yet written (R30). -/
structure CommandKept (s t : State) : Prop where
  fsm : t.fsm = .busy
  lat : t.lat = s.lat
  result : t.result = s.result

/-- A host access to a BUSY block keeps the command in flight (R30, R204). -/
theorem StepEffect.commandKept {s t : State} {a : Access} (h : StepEffect s t) (hbusy : s.fsm = .busy)
    (hhost : s.agenda.head? = some (.host a)) : CommandKept s t := by
  have hengine : ¬ EngineNext s := by
    rintro (hnone | hturn)
    · simp [hnone] at hhost
    · exact nomatch hturn.symm.trans hhost
  have hreset : ¬ ResetsNext s := fun hmove => nomatch hmove.symm.trans hhost
  cases h with
  | completed r draws turn busy => exact absurd turn hengine
  | reset move => exact absurd move hreset
  | failed c idle code => exact absurd hbusy (not_busy_of_idle idle)
  | accepted i idle modulus move => exact absurd hbusy (not_busy_of_idle idle)
  | passed | read | wroteOpa | wroteOpb | wroteOpm | dropped => exact ⟨hbusy, rfl, rfl⟩

/-- One supported access to a BUSY block. -/
theorem exists_step_commandKept {s : State} {a : Access} (hbusy : s.fsm = .busy) (hhost : s.agenda.head? = some (.host a))
    (ha : Supported s a) :
    ∃ t, step s = .next t ∧ CommandKept s t ∧ t.agenda = s.agenda.tail ∧ t.windowPage = s.windowPage := by
  obtain ⟨t, ht⟩ := exists_hostAccess_next (s := s.taken) ha
  have hstep : step s = .next t := (step_of_head hhost).trans ht
  have heffect := stepEffect_of_step hstep
  exact ⟨t, hstep, heffect.commandKept hbusy hhost, heffect.agenda_windowPage⟩

theorem runSteps_succ {s t : State} (h : step s = .next t) (n : Nat) : runSteps (n + 1) s = runSteps n t := by
  rw [runSteps, h]

/-- Any list of supported accesses to a BUSY block, by induction on the list. -/
theorem exists_runSteps_commandKept (accesses : List Access) (moves : List Move) {s : State} (hbusy : s.fsm = .busy)
    (hsupported : ∀ a ∈ accesses, Supported s a) (hagenda : s.agenda = accesses.map Move.host ++ moves) :
    ∃ t, runSteps accesses.length s = .next t ∧ CommandKept s t ∧ t.agenda = moves := by
  induction accesses generalizing s with
  | nil => exact ⟨s, rfl, ⟨hbusy, rfl, rfl⟩, hagenda⟩
  | cons a accesses ih =>
    obtain ⟨u, hstep, hkept, htail, hpage⟩ :=
      exists_step_commandKept hbusy (by simp [hagenda]) (hsupported a List.mem_cons_self)
    have hsupported' : ∀ a ∈ accesses, Supported u a := by
      intro b hb
      have := hsupported b (List.mem_cons_of_mem a hb)
      rwa [Supported, modcoreBase_eq, ← hpage, ← modcoreBase_eq] at this
    obtain ⟨t, hrun, hkept', htail'⟩ := ih hkept.fsm hsupported' (by simp [htail, hagenda])
    exact ⟨t, by rw [List.length_cons, runSteps_succ hstep, hrun],
      ⟨hkept'.fsm, hkept'.lat.trans hkept.lat, hkept'.result.trans hkept.result⟩, htail'⟩

/-- The ENGINE's step of a BUSY block ends the command, with a result of its latch (R33). -/
theorem exists_step_completes {s : State} (hbusy : s.fsm = .busy) (hturn : EngineNext s) :
    ∃ u, step s = .next u ∧ u.fsm = .idle ∧ u.status.done = true ∧ (LatchOk s → IsResultOf s.lat u.result) := by
  refine ⟨complete s.taken, ?_, ?_⟩
  · rw [step_of_engineNext hturn, engineTurn_of_busy (s := s.taken) hbusy]
  · have hresult (hlatch : LatchOk s) : IsResultOf s.lat (complete s.taken).result :=
      isResultOf_complete (s := s.taken) (hlatch hbusy)
    obtain ⟨r, n, hcomplete⟩ := complete_eq_finish s.taken
    exact ⟨by rw [hcomplete]; rfl, by rw [hcomplete]; rfl, hresult⟩

end Sys2Proof.Machine

open Sys2Proof.Machine

/-- Settles O54: the accesses keep the latch, by induction on their list, and the ENGINE's turn then completes it exactly. -/
theorem hostAccessesDoNotDisturbTheCommandInFlight : Obligations.HostAccessesDoNotDisturbTheCommandInFlight := by
  intro accesses rest s hbusy hsupported
  obtain ⟨t, hrun, hkept, hagenda⟩ :=
    exists_runSteps_commandKept (s := { s with agenda := accesses.map Move.host ++ .engine :: rest })
      accesses (.engine :: rest) hbusy hsupported rfl
  obtain ⟨u, hstep, hidle, hdone, hresult⟩ := exists_step_completes hkept.fsm (.inr (by simp [hagenda]))
  refine ⟨t, hrun, hkept.fsm, hkept.lat, hkept.result, u, hstep, hidle, hdone, fun hlatch => ?_⟩
  rw [LatchOk, hkept.lat] at hresult
  exact hresult fun _ => hlatch hbusy

end

section
/-! PROOFS. The statements of 20_memory.md: byte lanes, the form of an access, idempotent accesses, what a step takes, and what
RESULT is once DONE. -/

namespace Sys2Proof

/-! ### Byte lanes (R54) -/

theorem getLsbD_byteOf (w : Word) (k : Nat) {j : Nat} (hj : j < 8) : (byteOf w k).getLsbD j = w.getLsbD (8 * k + j) := by
  simp [byteOf, hj]

theorem length_bytesOfWord (w : Word) : (bytesOfWord w).length = 8 := by
  simp [bytesOfWord]

theorem getElem?_bytesOfWord (w : Word) {k : Nat} (hk : k < 8) : (bytesOfWord w)[k]? = some (byteOf w k) := by
  simp [bytesOfWord, hk]

/-- Bit i of the word built from lanes is bit i mod 8 of lane i div 8; a lane that is not there reads as 0. -/
theorem getLsbD_wordOfBytes (bs : List Byte) {i : Nat} (hi : i < 64) :
    (wordOfBytes bs).getLsbD i = (bs[i / 8]?).any (fun b => b.getLsbD (i % 8)) := by
  induction bs generalizing i with
  | nil => simp [wordOfBytes]
  | cons b rest ih =>
    rw [wordOfBytes, BitVec.getLsbD_or, BitVec.getLsbD_setWidth, BitVec.getLsbD_shiftLeft, decide_eq_true hi]
    by_cases hlow : i < 8
    · simp [hlow, Nat.div_eq_of_lt hlow, Nat.mod_eq_of_lt hlow]
    · obtain ⟨n, rfl⟩ : ∃ n, i = n + 8 := ⟨i - 8, by omega⟩
      rw [ih (by omega)]
      simp

/-- The lanes of a word give it back. -/
theorem wordOfBytes_bytesOfWord (w : Word) : wordOfBytes (bytesOfWord w) = w := by
  refine BitVec.eq_of_getLsbD_eq fun i hi => ?_
  rw [getLsbD_wordOfBytes _ hi, getElem?_bytesOfWord w (by omega), Option.any_some, getLsbD_byteOf w _ (by omega),
    Nat.div_add_mod]

theorem decodeBytes_bytesOfWord (w : Word) : decodeBytes (bytesOfWord w) = decode w := by
  rw [decodeBytes, if_pos (length_bytesOfWord w), wordOfBytes_bytesOfWord]

/-! ### A command's own word (R83) -/

theorem decode_encode (i : Instr) : decode (encode i) = .ok i := by
  cases i <;> rfl

end Sys2Proof

namespace Sys2Proof.Machine

/-! ### Which accesses are performed (R52, R53) -/

/-- An access of another width or alignment is refused, whatever its address (R53; log 10). -/
theorem atOffset_of_unsupportedForm {addr bytes : Nat} {act : Nat → State → Host.Outcome State Fault Refusal} {s : State}
    (h : bytes ≠ 8 ∨ addr % 8 ≠ 0) : atOffset addr bytes act s = .refused (.unsupportedAccess addr bytes) := by
  rw [atOffset, if_neg (by rwa [supportedForm_iff, not_and_or])]

/-- A host access goes to its offset, in its form, whether it reads or writes (R52). -/
theorem exists_hostAccess_eq_atOffset (a : Access) (s : State) :
    ∃ act, hostAccess a s = atOffset (accessAddr a) (accessWidth a) act s := by
  cases a with
  | read addr bytes => exact ⟨_, hostAccess_read addr bytes s⟩
  | write addr bytes v => exact ⟨_, hostAccess_write addr bytes v s⟩

/-- A step whose move is an access of another width or alignment is refused (R53). -/
theorem step_of_unsupportedForm {s : State} {a : Access} (h : accessWidth a ≠ 8 ∨ accessAddr a % 8 ≠ 0) :
    step (s.nextMove (.host a)) = .refused (.unsupportedAccess (accessAddr a) (accessWidth a)) := by
  obtain ⟨act, hact⟩ := exists_hostAccess_eq_atOffset a s
  rw [step_nextMove, performMove_host, hact, atOffset_of_unsupportedForm h]

/-- A host access is performed exactly when it is supported (R52, R53). -/
theorem exists_hostAccess_next_iff {s : State} {a : Access} : (∃ t, hostAccess a s = .next t) ↔ Supported s a := by
  refine ⟨fun ⟨t, ht⟩ => ?_, exists_hostAccess_next⟩
  obtain ⟨act, hact⟩ := exists_hostAccess_eq_atOffset a s
  obtain ⟨off, hlt, hmod, haddr, hwidth, -⟩ := atOffset_next (hact.symm.trans ht)
  rw [Supported, haddr, modcoreBase_eq]
  exact ⟨hwidth, by omega, by omega, by omega⟩

/-! ### Replies -/

/-- No register shows what the host has read (R52). -/
theorem readReg_replies (r : Option Reg) (words : List Word) (s : State) :
    readReg r { s with replies := words } = readReg r s :=
  readReg_congr rfl rfl rfl (fun _ => rfl) (fun _ => rfl)

/-- A read returns the register as it is, whatever the host has read before (R55). -/
theorem step_hostReads_of_replies {off : Nat} (hlt : off < 64) (hmod : off % 8 = 0) (words : List Word) (s : State) :
    step (State.hostReads { s with replies := words } off) =
      .next { s with replies := readReg (regAt off) s :: words } := by
  rw [step_hostReads hlt hmod, readReg_replies (regAt off) words s]

/-- The ENGINE returns nothing to the host (R33). -/
theorem engineTurn_replies (s : State) : (engineTurn s).replies = s.replies := by
  cases hf : s.fsm with
  | idle => rw [engineTurn_of_idle hf]
  | busy =>
    obtain ⟨r, n, hcomplete⟩ := complete_eq_finish s
    rw [engineTurn_of_busy hf, hcomplete, finish_replies, takeDraws_replies]

theorem exec_replies {i : Instr} {s t : State} (h : exec i s = .next t) : t.replies = s.replies := by
  obtain ⟨-, rfl⟩ | ⟨-, -, -, rfl⟩ | ⟨-, -, rfl⟩ := exec_cases h <;> rfl

theorem cmdWrite_replies {w : Word} {s t : State} (h : cmdWrite w s = .next t) : t.replies = s.replies := by
  obtain ⟨-, hc⟩ | ⟨-, -, hc⟩ | ⟨-, i, -, hc⟩ := cmdWrite_cases w s
  · cases hc.symm.trans h
    rfl
  · cases hc.symm.trans h
    rfl
  · exact exec_replies (hc.symm.trans h)

/-- A write returns nothing to the host (R34). -/
theorem writeReg_replies {off : Nat} {v : Word} {s t : State} (h : writeReg (regAt off) v s = .next t) :
    t.replies = s.replies := by
  obtain ⟨-, rfl⟩ | ⟨-, rfl⟩ | ⟨-, rfl⟩ | ⟨-, hc⟩ | ⟨-, rfl⟩ := writeReg_cases h
  case inr.inr.inr.inl => exact cmdWrite_replies hc
  all_goals rfl

/-! ### Runs of writes -/

/-- A run whose first move is a supported write goes on from what the write leaves. -/
theorem runSteps_hostWrites {s t : State} {off : Nat} {v : Word} (hlt : off < 64) (hmod : off % 8 = 0)
    (ht : writeReg (regAt off) v s = .next t) (n : Nat) : runSteps (n + 1) (s.hostWrites off v) = runSteps n t :=
  runSteps_succ ((step_hostWrites hlt hmod).trans ht) n

/-- A command's own word, written to CMD while IDLE and with a nonzero OPM, is accepted (R32). -/
theorem writeReg_encode_of_nonzero (i : Instr) {s : State} (hidle : s.fsm = .idle) (hm : s.opm ≠ 0) :
    writeReg (regAt 0x18) (encode i) s = .next (accept i s) :=
  calc writeReg (regAt 0x18) (encode i) s
    _ = exec i s := cmdWrite_of_legal hidle (decode_encode i)
    _ = .next (accept i s) := by rw [exec_of_idle hidle, start_of_nonzero hm]

/-! ### RESULT after a step -/

/-- The ENGINE's completion leaves a result of the latch, which it keeps (R33, R61 item 3). -/
theorem isResultOf_of_step_completes {s t : State} (hlatch : LatchOk s) (hbusy : s.fsm = .busy) (hturn : EngineNext s)
    (hstep : step s = .next t) : IsResultOf s.lat t.result := by
  obtain ⟨u, hu, -, -, hresult⟩ := exists_step_completes hbusy hturn
  cases hu.symm.trans hstep
  exact hresult hlatch

end Sys2Proof.Machine

open Sys2Proof Sys2Proof.Machine

/-- Settles O53, by the effect of the step: a completion writes the latch's exact result, an error sets ERR, an acceptance and
RESET clear DONE, and every other effect keeps DONE, ERR, the latch and RESULT. -/
theorem doneResultIsTheLatchedCommandsResult : Obligations.DoneResultIsTheLatchedCommandsResult := by
  rintro s t ⟨-, -, hlatch⟩ hok hstep
  cases stepEffect_of_step hstep with
  | completed r draws turn busy => exact fun _ _ => isResultOf_of_step_completes (s := s) hlatch busy turn hstep
  | failed c idle code => exact nofun
  | accepted i idle modulus move => exact nofun
  | reset move => exact nofun
  | passed | read | wroteOpa | wroteOpb | wroteOpm | dropped => exact hok

/-- Settles O5, from the bits of a word built out of lanes. -/
theorem byteLanesAreLittleEndian : Obligations.ByteLanesAreLittleEndian := by
  refine ⟨fun w k j hk hj => ?_, fun w => ⟨wordOfBytes_bytesOfWord w, decodeBytes_bytesOfWord w⟩, fun bs hlen => if_neg hlen⟩
  rw [getElem?_bytesOfWord w hk, Option.map_some, getLsbD_byteOf w k hj]

/-- Settles O13, by the first move of the agenda: only a host access can stop. -/
theorem stepsStopOnlyOnUnsupportedAccesses : Obligations.StepsStopOnlyOnUnsupportedAccesses := by
  intro s
  cases hhead : s.agenda.head? with
  | none => exact iff_of_true ⟨_, step_of_empty (List.head?_eq_none_iff.mp hhead)⟩ nofun
  | some m =>
    rw [step_of_head hhead]
    cases m with
    | engine => exact iff_of_true ⟨_, rfl⟩ nofun
    | reset => exact iff_of_true ⟨_, rfl⟩ nofun
    | host a =>
      have hperformed : (∃ t, performMove (.host a) s.taken = .next t) ↔ Supported s a := exists_hostAccess_next_iff
      rw [hperformed]
      exact ⟨fun h b hb => by cases hb; exact h, fun h => h a rfl⟩

/-- Settles O14: a write sets its register to a value that does not depend on the state, and no register shows the replies. -/
theorem writesAndReadsAreIdempotent : Obligations.WritesAndReadsAreIdempotent := by
  intro s t off v
  constructor
  · intro hoff ht
    simp only [List.mem_cons, List.not_mem_nil, or_false] at hoff
    obtain rfl | rfl | rfl := hoff
    all_goals
      rw [step_hostWrites (by decide) (by decide)] at ht ⊢
      cases ht
      rfl
  · intro hoff ht
    have hoffset : off < 64 ∧ off % 8 = 0 := by
      simp only [List.mem_cons, List.not_mem_nil, or_false] at hoff
      omega
    obtain ⟨hlt, hmod⟩ := hoffset
    rw [step_hostReads hlt hmod] at ht
    cases ht
    exact ⟨readReg (regAt off) s, rfl, step_hostReads_of_replies hlt hmod _ s⟩

/-- Settles O20, one write after another: three operand writes, then the acceptance of the command. -/
theorem commandLatchesOperandsWrittenBefore : Obligations.CommandLatchesOperandsWrittenBefore := by
  intro s i a b m hidle hm
  have haccept := writeReg_encode_of_nonzero (s := { s with opa := a, opb := b, opm := m }) i hidle hm
  refine ⟨accept i { s with opa := a, opb := b, opm := m }, ?_, rfl, rfl, rfl, rfl⟩
  calc runSteps 4 ((((s.hostWrites 0x18 (encode i)).hostWrites 0x10 m).hostWrites 0x08 b).hostWrites 0x00 a)
    _ = runSteps 3 (((State.hostWrites { s with opa := a } 0x18 (encode i)).hostWrites 0x10 m).hostWrites 0x08 b) :=
      runSteps_hostWrites (by decide) (by decide) rfl 3
    _ = runSteps 2 ((State.hostWrites { s with opa := a, opb := b } 0x18 (encode i)).hostWrites 0x10 m) :=
      runSteps_hostWrites (by decide) (by decide) rfl 2
    _ = runSteps 1 (State.hostWrites { s with opa := a, opb := b, opm := m } 0x18 (encode i)) :=
      runSteps_hostWrites (by decide) (by decide) rfl 1
    _ = runSteps 0 (accept i { s with opa := a, opb := b, opm := m }) :=
      runSteps_hostWrites (by decide) (by decide) haccept 0

/-- Settles O48: only a read returns a word. -/
theorem stepTakesOneMove : Obligations.StepTakesOneMove := by
  intro s t hstep
  obtain ⟨hagenda, hpage⟩ := (stepEffect_of_step hstep).agenda_windowPage
  refine ⟨hagenda, hpage, ?_⟩
  obtain ⟨-, rfl⟩ | ⟨-, rfl⟩ | ⟨off, -, -, hread, rfl⟩ | ⟨off, v, -, -, -, hwrite⟩ := step_cases hstep
  · exact .inl (engineTurn_replies _)
  · exact .inl rfl
  · exact .inr ⟨off, hread, rfl⟩
  · exact .inl (writeReg_replies (s := s.taken) hwrite)

/-- Settles O11: the form of the access is checked before its address. -/
theorem unsupportedAccessIsRefused : Obligations.UnsupportedAccessIsRefused := by
  intro s addr bytes v hform
  exact ⟨step_of_unsupportedForm (a := .read addr bytes) hform, step_of_unsupportedForm (a := .write addr bytes v) hform⟩

end

section
/-! PROOFS. The legal command words (spec/30_encoding.md R81 to R83, R86): the words 1 to 5, each a command's own. -/

namespace Sys2Proof

open Machine (eq_encode_of_decode)

/-- Decoding and encoding are inverse to each other (R83). -/
theorem decode_eq_ok_iff {w : Word} {i : Instr} : decode w = .ok i ↔ w = encode i :=
  ⟨eq_encode_of_decode, fun h => h ▸ decode_encode i⟩

/-- Decoding is total: a word that is not legal is rejected by some name (R86). -/
theorem exists_decode_error_iff {w : Word} : (∃ r, decode w = .error r) ↔ ¬ ∃ i, decode w = .ok i := by
  cases decode w with
  | error r => exact iff_of_true ⟨r, rfl⟩ (by simp)
  | ok i => exact iff_of_false (by simp) (not_not_intro ⟨i, rfl⟩)

/-! ### Words by their value -/

theorem toNat_encode (i : Instr) : (encode i).toNat = (opcodeOf i).toNat := by
  cases i <;> rfl

/-- A word decodes to a command exactly when its value is the command's opcode (R82). -/
theorem decode_eq_ok_iff_toNat {w : Word} {i : Instr} : decode w = .ok i ↔ w.toNat = (opcodeOf i).toNat := by
  rw [decode_eq_ok_iff, ← toNat_encode, BitVec.toNat_inj]

/-- The opcodes of the opcode map are 1 to 5 (R82). -/
theorem exists_eq_opcodeOf_iff {n : Nat} : (∃ i, n = (opcodeOf i).toNat) ↔ 1 ≤ n ∧ n ≤ 5 := by
  constructor
  · rintro ⟨i, rfl⟩
    cases i <;> decide
  · rintro ⟨hpos, hle⟩
    interval_cases n
    · exact ⟨.modadd, rfl⟩
    · exact ⟨.modmul, rfl⟩
    · exact ⟨.modpow, rfl⟩
    · exact ⟨.gcd, rfl⟩
    · exact ⟨.modinv, rfl⟩

theorem exists_decode_ok_iff {w : Word} : (∃ i, decode w = .ok i) ↔ 1 ≤ w.toNat ∧ w.toNat ≤ 5 := by
  simp only [decode_eq_ok_iff_toNat, exists_eq_opcodeOf_iff]

/-! ### Words by their CMD64 fields -/

/-- The value of a word, from its CMD64 fields (R81). -/
theorem toNat_eq_fields (w : Word) : w.toNat = 16 * (cmdFields w).rsvd.toNat + (cmdFields w).opcode.toNat := by
  have hw := w.isLt
  simp only [cmdFields, BitVec.extractLsb'_toNat, Nat.shiftRight_eq_div_pow]
  omega

/-- The three checks of R86. -/
theorem cmdFields_wf_iff {f : CmdFields} : f.wf = true ↔ f.rsvd = 0 ∧ f.opcode ≠ 0 ∧ f.opcode.toNat ≤ 5 := by
  simp [CmdFields.wf, CmdFields.rsvdOk, CmdFields.opcodeNotZero, CmdFields.opcodeNotReserved, and_assoc]

/-- The legal words are those whose fields pass the checks: with no reserved bit set, a word's value is its opcode. -/
theorem exists_decode_ok_iff_wf {w : Word} : (∃ i, decode w = .ok i) ↔ (cmdFields w).wf = true := by
  have hlt := (cmdFields w).opcode.isLt
  have hrsvd : (cmdFields w).rsvd = 0 ↔ (cmdFields w).rsvd.toNat = 0 := BitVec.toNat_inj.symm
  have hop : (cmdFields w).opcode = 0 ↔ (cmdFields w).opcode.toNat = 0 := BitVec.toNat_inj.symm
  rw [exists_decode_ok_iff, cmdFields_wf_iff, toNat_eq_fields w, hrsvd, ne_eq, hop]
  omega

end Sys2Proof

open Sys2Proof

/-- Settles O3: a word decodes exactly when its value is an opcode, and the opcodes are 1 to 5. -/
theorem legalWordsAreExactlyFive : Obligations.LegalWordsAreExactlyFive := by
  intro w
  refine ⟨decode_eq_ok_iff_toNat, decode_eq_ok_iff_toNat, decode_eq_ok_iff_toNat, decode_eq_ok_iff_toNat,
    decode_eq_ok_iff_toNat, fun i => decode_eq_ok_iff, ?_⟩
  rw [exists_decode_error_iff, exists_decode_ok_iff]
  omega

/-- Settles O4: a word is legal exactly when its fields pass the three checks, so it is illegal exactly when one fails. -/
theorem illegalWordsAreTheReservedOnes : Obligations.IllegalWordsAreTheReservedOnes := by
  intro w
  refine ⟨?_, exists_decode_ok_iff_wf⟩
  rw [exists_decode_error_iff, exists_decode_ok_iff_wf, cmdFields_wf_iff, not_and_or, not_and_or, not_not, not_le]
  rfl

/-- Settles O1: the five legal words are the commands' own, and each illegal word fails the check that names it. -/
theorem opcodeMapWordsDecode : Obligations.OpcodeMapWordsDecode :=
  ⟨decode_encode .modadd, decode_encode .modmul, decode_encode .modpow, decode_encode .gcd, decode_encode .modinv,
    rfl, rfl, rfl⟩

/-- Settles O2: the byte lanes of a word decode as the word does. -/
theorem decodeOfEncodeIsTheCommand : Obligations.DecodeOfEncodeIsTheCommand :=
  fun i => ⟨decode_encode i, (decodeBytes_bytesOfWord (encode i)).trans (decode_encode i)⟩

end

section
/-! PROOFS. The lines of a host script (spec/30_encoding.md R87, R88): which turn a line is, the bus access it makes, and where the
script goes on. -/

namespace Sys2Proof.Machine.Script

/-! ### The bus accesses of a turn -/

/-- A move the block performs goes on with the block's next state. -/
theorem drive_of_next {m : Move} {h : HostState} {s : State} (hstep : step (h.block.nextMove m) = .next s)
    (k : HostState → HostState) : drive m h k = .next (k { h with block := s }) := by
  rw [State.nextMove] at hstep
  rw [drive, hstep]

theorem busWrite_of_next {r : Reg} {v : Word} {h : HostState} {s : State}
    (hstep : step (h.block.hostWrites (regOffset r) v) = .next s) (k : HostState → HostState) :
    busWrite r v h k = .next (k { h with block := s }) :=
  drive_of_next hstep k

/-- A read of a register hands on the word it holds, the newest reply (R52). -/
theorem busRead_of_next {r : Reg} {h : HostState} {s : State} (hstep : step (h.block.hostReads (regOffset r)) = .next s)
    (k : Word → HostState → HostState) :
    busRead r h k = .next (k (readReg (some r) h.block) { h with block := s }) := by
  obtain ⟨hreg, hlt, hmod⟩ := regAt_regOffset r
  have hreply : s.replies.headD 0 = readReg (some r) h.block := by
    rw [step_hostReads hlt hmod, hreg] at hstep
    cases hstep
    rfl
  rw [← hreply]
  exact drive_of_next hstep _

/-- POLL goes on exactly when BUSY, bit 0 of the STATUS word, is 0 (R25, R87). -/
theorem afterPoll_statusWord (t : Fin 16) (st : Status) (h : HostState) :
    afterPoll t (statusWord st) h =
      { h with temps := h.temps.set t (statusWord st), line := if st.busy = true then h.line else h.line + 1 } := by
  rw [afterPoll, statusWord_getLsbD]
  cases st.busy <;> rfl

/-! ### The turn of a running host, by the line it has reached -/

section Turn

variable {script : List Line} {h : HostState}
variable (hrun : h.halted = false)
include hrun

theorem hostTurn_write {r : Reg} {v : Operand} (hline : script[h.line]? = some (.write r v)) :
    hostTurn script h = busWrite r (operandValue h.temps v) h advance := by
  simp [hostTurn, hrun, hline]

theorem hostTurn_cmd {i : Instr} (hline : script[h.line]? = some (.cmd i)) :
    hostTurn script h = busWrite .cmd (encode i) h advance := by
  simp [hostTurn, hrun, hline]

theorem hostTurn_cmdWord {w : Word} (hline : script[h.line]? = some (.cmdWord w)) :
    hostTurn script h = busWrite .cmd w h advance := by
  simp [hostTurn, hrun, hline]

theorem hostTurn_read {r : Reg} {t : Fin 16} (hline : script[h.line]? = some (.read r t)) :
    hostTurn script h = busRead r h (fun w h' => advance (setTemp t w h')) := by
  simp [hostTurn, hrun, hline]

theorem hostTurn_poll {t : Fin 16} (hline : script[h.line]? = some (.poll t)) :
    hostTurn script h = busRead .status h (afterPoll t) := by
  simp [hostTurn, hrun, hline]

theorem hostTurn_ifGoto {c : Cond} {name : String} (hline : script[h.line]? = some (.ifGoto c name)) :
    hostTurn script h = branch script c name h := by
  simp [hostTurn, hrun, hline]

theorem hostTurn_goto {name : String} (hline : script[h.line]? = some (.goto name)) :
    hostTurn script h = jump script name h := by
  simp [hostTurn, hrun, hline]

theorem hostTurn_label {name : String} (hline : script[h.line]? = some (.label name)) :
    hostTurn script h = .next (advance h) := by
  simp [hostTurn, hrun, hline]

/-- HALT and the script's end do the same (log 16). -/
theorem hostTurn_end (hline : script[h.line]? = some .halt ∨ script[h.line]? = none) :
    hostTurn script h = .next { h with halted := true } := by
  obtain hhalt | hpast := hline
  · simp [hostTurn, hrun, hhalt]
  · simp [hostTurn, hrun, hpast]

end Turn

/-! ### Assignments and jumps -/

/-- What an assignment changes, whatever its expression gives (log 21). -/
theorem exists_assign_eq (t : Fin 16) (e : Expr) (h : HostState) :
    ∃ (w : Word) (d : Nat), assign t e h = { h with temps := h.temps.set t w, line := h.line + 1, draws := d } :=
  ⟨_, _, rfl⟩

theorem jump_of_label {script : List Line} {name : String} {n : Nat} (hl : labelLine script name = some n) (h : HostState) :
    jump script name h = .next { h with line := n } := by
  rw [jump, hl]

theorem jump_of_missing_label {script : List Line} {name : String} (hl : labelLine script name = none) (h : HostState) :
    jump script name h = .refused (.scriptLabel h.line) := by
  rw [jump, hl]

/-! ### Branches -/

/-- A branch to a label of the script goes there or to the next line. -/
theorem exists_branch_eq_of_label {script : List Line} {name : String} {n : Nat} (hl : labelLine script name = some n) (c : Cond)
    (h : HostState) :
    ∃ d, branch script c name h = .next { h with line := n, draws := d } ∨
      branch script c name h = .next { h with line := h.line + 1, draws := d } := by
  refine ⟨(condValue h.temps c h.draws).2, ?_⟩
  rw [branch_of_label hl]
  by_cases hc : (condValue h.temps c h.draws).1 = true
  · exact .inl (by rw [if_pos hc])
  · exact .inr (by rw [if_neg hc])

/-- A branch to a label the script does not hold is refused where it is taken (log 16). -/
theorem branch_of_missing_label {script : List Line} {name : String} (hl : labelLine script name = none) (c : Cond)
    (h : HostState) :
    branch script c name h = .refused (.scriptLabel h.line) ∨
      ∃ d, branch script c name h = .next { h with line := h.line + 1, draws := d } := by
  simp only [branch]
  split
  case isTrue => exact .inl (jump_of_missing_label hl _)
  case isFalse => exact .inr ⟨_, rfl⟩

/-- A branch whose condition draws nothing goes to its label exactly when the condition holds. -/
theorem branch_of_decided {script : List Line} {name : String} {n : Nat} {c : Cond} {h : HostState} {holds : Prop}
    [Decidable holds] (hl : labelLine script name = some n) (hc : condValue h.temps c h.draws = (decide holds, h.draws)) :
    (holds → branch script c name h = .next { h with line := n }) ∧
    (¬ holds → branch script c name h = .next { h with line := h.line + 1 }) := by
  rw [branch_of_label hl, hc]
  exact ⟨fun hh => by rw [if_pos (decide_eq_true hh)], fun hh => by rw [if_neg (by rwa [decide_eq_true_iff])]⟩

/-! A comparison of two operands compares their words as unsigned values, and draws nothing. -/

section Comparisons

variable (temps : Vector Word 16) (x y : Operand) (draw : Nat)

theorem condValue_eq_args :
    condValue temps (.eq (.arg x) (.arg y)) draw = (decide (operandValue temps x = operandValue temps y), draw) := by
  simp [condValue, BitVec.toNat_inj]

theorem condValue_ne_args :
    condValue temps (.ne (.arg x) (.arg y)) draw = (decide (operandValue temps x ≠ operandValue temps y), draw) := by
  simp [condValue, BitVec.toNat_inj]

theorem condValue_lt_args :
    condValue temps (.lt (.arg x) (.arg y)) draw =
      (decide ((operandValue temps x).toNat < (operandValue temps y).toNat), draw) := by
  simp [condValue]

theorem condValue_ge_args :
    condValue temps (.ge (.arg x) (.arg y)) draw =
      (decide ((operandValue temps y).toNat ≤ (operandValue temps x).toNat), draw) := by
  simp [condValue]

end Comparisons

end Sys2Proof.Machine.Script

open Sys2Proof Sys2Proof.Machine Sys2Proof.Machine.Script

/-- Settles O58: each line's turn is its access, and the access the block performs gives the line's outcome. -/
theorem scriptLinesAreBusAccesses : Obligations.ScriptLinesAreBusAccesses := by
  intro script h s hrun
  refine ⟨?write, ?cmd, ?cmdWord, ?read, ?poll⟩
  case write => exact fun r v hline hstep => (hostTurn_write hrun hline).trans (busWrite_of_next hstep advance)
  case cmd => exact fun i hline hstep => (hostTurn_cmd hrun hline).trans (busWrite_of_next (r := .cmd) hstep advance)
  case cmdWord => exact fun w hline hstep => (hostTurn_cmdWord hrun hline).trans (busWrite_of_next (r := .cmd) hstep advance)
  case read => exact fun r t hline hstep => (hostTurn_read hrun hline).trans (busRead_of_next hstep _)
  case poll =>
    intro t hline hstep
    rw [hostTurn_poll hrun hline, busRead_of_next (r := .status) hstep, readReg, afterPoll_statusWord]

/-- Settles O60: each line's turn, then what its assignment, branch or jump does. -/
theorem hostControlLineOutcomes : Obligations.HostControlLineOutcomes := by
  intro script h hrun
  refine ⟨?assign, ?branch, ?compare, ?goto, ?branchMissing, ?gotoMissing, fun name hline => hostTurn_label hrun hline,
    hostTurn_end hrun⟩
  case assign =>
    intro t e hline
    obtain ⟨w, d, hassign⟩ := exists_assign_eq t e h
    exact ⟨w, d, (hostTurn_assign hrun hline).trans (congrArg _ hassign)⟩
  case branch =>
    intro c name n hline hl
    rw [hostTurn_ifGoto hrun hline]
    exact exists_branch_eq_of_label hl c h
  case compare =>
    intro x y name n hl u v branches
    have decided {c : Cond} {holds : Prop} [Decidable holds]
        (hc : condValue h.temps c h.draws = (decide holds, h.draws)) : branches c holds := by
      intro hline
      rw [hostTurn_ifGoto hrun hline]
      exact branch_of_decided hl hc
    exact ⟨decided (condValue_eq_args ..), decided (condValue_ne_args ..), decided (condValue_lt_args ..),
      decided (condValue_ge_args ..)⟩
  case goto => exact fun name n hline hl => (hostTurn_goto hrun hline).trans (jump_of_label hl h)
  case branchMissing =>
    intro c name hline hl
    rw [hostTurn_ifGoto hrun hline]
    exact branch_of_missing_label hl c h
  case gotoMissing => exact fun name hline hl => (hostTurn_goto hrun hline).trans (jump_of_missing_label hl h)

/-- Settles O57: each line of the expansions, as the table of R88 lists them. -/
theorem pseudoInstructionExpansions : Obligations.PseudoInstructionExpansions :=
  fun _ _ _ _ => ⟨rfl, rfl, rfl, rfl, rfl⟩

end

section
/-! PROOFS. A command of one write and one completion (spec/10_state.md R32, R33, spec/60_exceptions.md R203): what exec and the
ENGINE's step give, in the states the statements name. -/

namespace Sys2Proof.Machine

/-- MOD_ZERO is reported at the CMD write (R203). -/
theorem exec_of_idle_of_zero {i : Instr} {s : State} (hidle : s.fsm = .idle) (hc : checksModulus i = true)
    (hm : s.opm = 0) : exec i s = .next (modZeroState s) :=
  (exec_of_idle hidle).trans (congrArg _ (start_of_zero hc hm))

/-- A nonzero OPM is enough for acceptance, whatever the command (R32). -/
theorem exec_of_idle_of_nonzero {i : Instr} {s : State} (hidle : s.fsm = .idle) (hm : s.opm ≠ 0) :
    exec i s = .next (acceptedState i s) :=
  (exec_of_idle hidle).trans (congrArg _ (start_of_nonzero hm))

/-- The ENGINE's step after an acceptance writes the value the command's completion finishes with, and nothing was dropped (R33). -/
theorem step_engine_acceptedState {i : Instr} {s : State} {r : Word}
    (hr : complete (acceptedState i s) = finish r (acceptedState i s)) :
    step ((acceptedState i s).nextMove .engine) = .next (completedState r (acceptedState i s)) :=
  calc step ((acceptedState i s).nextMove .engine)
    _ = .next (complete (acceptedState i s)) := congrArg _ (engineTurn_of_busy rfl)
    _ = .next (finish r (acceptedState i s)) := by rw [hr]

end Sys2Proof.Machine
end

section
/-! PROOFS. The statements of 40_modadd.md: the modular_adder's laws (R103), each from its exactness over the natural numbers, and
MODADD (R105). -/

namespace Sys2Proof.Machine

theorem toNat_modadd64_lt (a b : Word) {m : Word} (hm : m ≠ 0) : (modadd64 a b m).toNat < m.toNat := by
  rw [toNat_modadd64 a b hm]
  exact Nat.mod_lt _ (toNat_pos_of_ne_zero hm)

theorem modadd64_comm (a b : Word) {m : Word} (hm : m ≠ 0) : modadd64 a b m = modadd64 b a m :=
  BitVec.eq_of_toNat_eq (by rw [toNat_modadd64 a b hm, toNat_modadd64 b a hm, Nat.add_comm])

theorem modadd64_zero (a : Word) {m : Word} (hm : m ≠ 0) : modadd64 a 0 m = a % m :=
  BitVec.eq_of_toNat_eq (by rw [toNat_modadd64 a 0 hm, BitVec.toNat_umod]; rfl)

theorem modadd64_one (a b : Word) : modadd64 a b 1 = 0 :=
  BitVec.eq_of_toNat_eq ((toNat_modadd64 a b (by decide)).trans (Nat.mod_one _))

theorem modadd64_umod (a b : Word) {m : Word} (hm : m ≠ 0) : modadd64 a b m = modadd64 (a % m) (b % m) m :=
  BitVec.eq_of_toNat_eq (by
    rw [toNat_modadd64 a b hm, toNat_modadd64 _ _ hm, BitVec.toNat_umod, BitVec.toNat_umod, ← Nat.add_mod])

/-- On reduced operands one conditional subtraction is the whole reduction (R102). -/
theorem toNat_modadd64_of_lt {a b m : Word} (ha : a.toNat < m.toNat) (hb : b.toNat < m.toNat) (hm : m ≠ 0) :
    (modadd64 a b m).toNat =
      if a.toNat + b.toNat < m.toNat then a.toNat + b.toNat else a.toNat + b.toNat - m.toNat := by
  rw [toNat_modadd64 a b hm]
  split
  case isTrue h => exact Nat.mod_eq_of_lt h
  case isFalse h => rw [Nat.mod_eq_sub_mod (not_lt.mp h), Nat.mod_eq_of_lt (by omega)]

end Sys2Proof.Machine

open Sys2Proof Sys2Proof.Machine

/-- Settles O27: the reduction of the operands and the one conditional subtraction lose nothing. -/
theorem modadderIsExact : Obligations.ModadderIsExact :=
  fun a b _ hm => ⟨toNat_modadd64 a b hm, toNat_modadd64_lt a b hm⟩

/-- Settles O28: each law is the law of the sum's remainder over the natural numbers. -/
theorem modadderLaws : Obligations.ModadderLaws :=
  fun a b _ hm => ⟨toNat_modadd64_lt a b hm, modadd64_comm a b hm, modadd64_zero a hm, modadd64_one a b, modadd64_umod a b hm,
    fun ha hb => toNat_modadd64_of_lt ha hb hm⟩

/-- Settles O21: the CMD write by the value of OPM, then the completion, whose value is the modular_adder's on the latch. -/
theorem modaddCommand : Obligations.ModaddCommand := by
  refine ⟨rfl, decode_encode .modadd, fun s hidle => ⟨exec_of_idle_of_zero hidle rfl, fun hm => ?_⟩⟩
  exact ⟨exec_of_idle_of_nonzero hidle hm, modadd64 s.opa s.opb s.opm, toNat_modadd64 s.opa s.opb hm,
    toNat_modadd64_lt s.opa s.opb hm, step_engine_acceptedState rfl⟩

end

section
/-! PROOFS. The statements of 41_modmul.md: the path test of R121 and the direct path (R122), the double-and-add loop (R124), the
modular_multiplier's laws (R125), each from its exactness over the natural numbers, and MODMUL (R126). -/

namespace Sys2Proof.Machine

/-- The path test of R121, over the natural numbers. -/
theorem takesDirectPath_iff {a b : Word} : takesDirectPath a b = true ↔ a = 0 ∨ b.toNat < (2 ^ 64 - 1) / a.toNat := by
  have hmax : max64.toNat = 2 ^ 64 - 1 := by decide
  rw [takesDirectPath, decide_eq_true_iff, BitVec.lt_def, BitVec.toNat_udiv, hmax]

theorem modmul64_of_takesDirectPath {a b : Word} (h : takesDirectPath a b = true) (m : Word) :
    modmul64 a b m = modmulDirect a b m :=
  if_pos h

theorem toNat_modmul64_lt (a b : Word) {m : Word} (hm : m ≠ 0) : (modmul64 a b m).toNat < m.toNat := by
  rw [toNat_modmul64 a b hm]
  exact Nat.mod_lt _ (toNat_pos_of_ne_zero hm)

/-- The path taken does not change the value (R121). -/
theorem modmulDoubleAdd_eq_modmul64 (a b : Word) {m : Word} (hm : m ≠ 0) : modmulDoubleAdd a b m = modmul64 a b m :=
  BitVec.eq_of_toNat_eq ((toNat_modmulDoubleAdd a b hm).trans (toNat_modmul64 a b hm).symm)

theorem modmul64_comm (a b : Word) {m : Word} (hm : m ≠ 0) : modmul64 a b m = modmul64 b a m :=
  BitVec.eq_of_toNat_eq (by rw [toNat_modmul64 a b hm, toNat_modmul64 b a hm, Nat.mul_comm])

theorem zero_modmul64 (b : Word) {m : Word} (hm : m ≠ 0) : modmul64 0 b m = 0 :=
  BitVec.eq_of_toNat_eq ((toNat_modmul64 0 b hm).trans (by simp))

theorem modmul64_zero (a : Word) {m : Word} (hm : m ≠ 0) : modmul64 a 0 m = 0 :=
  (modmul64_comm a 0 hm).trans (zero_modmul64 a hm)

theorem modmul64_by_one (a : Word) {m : Word} (hm : m ≠ 0) : modmul64 a 1 m = a % m :=
  BitVec.eq_of_toNat_eq ((toNat_modmul64 a 1 hm).trans (by simp))

theorem modmul64_modulus_one (a b : Word) : modmul64 a b 1 = 0 :=
  BitVec.eq_of_toNat_eq ((toNat_modmul64 a b (by decide)).trans (Nat.mod_one _))

theorem modmul64_umod (a b : Word) {m : Word} (hm : m ≠ 0) : modmul64 a b m = modmul64 (a % m) (b % m) m :=
  BitVec.eq_of_toNat_eq (by
    rw [toNat_modmul64 a b hm, toNat_modmul64 _ _ hm, BitVec.toNat_umod, BitVec.toNat_umod, ← Nat.mul_mod])

end Sys2Proof.Machine

open Sys2Proof Sys2Proof.Machine

/-- Settles O29: the hypothesis is the path test itself, and where it holds the product fits in 64 bits. -/
theorem directPathIsExact : Obligations.DirectPathIsExact := by
  intro a b m h
  have hdirect : takesDirectPath a b = true := takesDirectPath_iff.mpr h
  have hfits : a.toNat * b.toNat < 2 ^ 64 := mul_lt_of_takesDirectPath hdirect
  exact ⟨hfits, toNat_modmulDirect hfits m, modmul64_of_takesDirectPath hdirect m⟩

/-- Settles O30, by induction on the iteration; the invariants need no bound on it, and at 64 the whole of b has been read. -/
theorem doubleAddLoopInvariant : Obligations.DoubleAddLoopInvariant :=
  fun a b _ hm => ⟨fun i _ => toNat_doubleAddLoop a b hm i, toNat_modmulDoubleAdd a b hm⟩

/-- Settles O31: both paths give the remainder of the exact product. -/
theorem multiplierIsExact : Obligations.MultiplierIsExact :=
  fun a b _ hm => ⟨toNat_modmul64 a b hm, toNat_modmul64_lt a b hm, modmulDoubleAdd_eq_modmul64 a b hm⟩

/-- Settles O32: each law is the law of the product's remainder over the natural numbers. -/
theorem multiplierLaws : Obligations.MultiplierLaws :=
  fun a b _ hm => ⟨modmul64_comm a b hm, zero_modmul64 b hm, modmul64_zero a hm, modmul64_by_one a hm, modmul64_modulus_one a b,
    modmul64_umod a b hm⟩

/-- Settles O22: the CMD write by the value of OPM, then the completion, whose value is the modular_multiplier's on the latch. -/
theorem modmulCommand : Obligations.ModmulCommand := by
  refine ⟨rfl, decode_encode .modmul, fun s hidle => ⟨exec_of_idle_of_zero hidle rfl, fun hm => ?_⟩⟩
  exact ⟨exec_of_idle_of_nonzero hidle hm, modmul64 s.opa s.opb s.opm, toNat_modmul64 s.opa s.opb hm,
    toNat_modmul64_lt s.opa s.opb hm, step_engine_acceptedState rfl⟩

end

section
/-! PROOFS. The statements of 42_modpow.md: the modular_exponentiation_engine's laws (R144), each from its exactness over the
natural numbers, and MODPOW (R145). -/

namespace Sys2Proof.Machine

theorem toNat_modpow64_lt (x e : Word) {m : Word} (hm : m ≠ 0) : (modpow64 x e m).toNat < m.toNat := by
  rw [toNat_modpow64 x e hm]
  exact Nat.mod_lt _ (toNat_pos_of_ne_zero hm)

theorem modpow64_exponent_zero (x : Word) {m : Word} (hm : m ≠ 0) : modpow64 x 0 m = 1 % m :=
  BitVec.eq_of_toNat_eq ((toNat_modpow64 x 0 hm).trans (by simp))

theorem modpow64_exponent_one (x : Word) {m : Word} (hm : m ≠ 0) : modpow64 x 1 m = x % m :=
  BitVec.eq_of_toNat_eq ((toNat_modpow64 x 1 hm).trans (by simp))

/-- A positive exponent is needed: base 0 with exponent 0 gives 1 mod m. -/
theorem zero_modpow64 {e m : Word} (he : 1 ≤ e.toNat) (hm : m ≠ 0) : modpow64 0 e m = 0 := by
  have hpow : (0 : Word).toNat ^ e.toNat = 0 := Nat.zero_pow he
  exact BitVec.eq_of_toNat_eq ((toNat_modpow64 0 e hm).trans (by rw [hpow, Nat.zero_mod]; rfl))

theorem modpow64_modulus_one (x e : Word) : modpow64 x e 1 = 0 :=
  BitVec.eq_of_toNat_eq ((toNat_modpow64 x e (by decide)).trans (Nat.mod_one _))

theorem modpow64_umod (x e : Word) {m : Word} (hm : m ≠ 0) : modpow64 x e m = modpow64 (x % m) e m :=
  BitVec.eq_of_toNat_eq (by rw [toNat_modpow64 x e hm, toNat_modpow64 _ e hm, BitVec.toNat_umod, ← Nat.pow_mod])

/-- The sum must not wrap: x ^ (2 ^ 64) mod m need not be 1 mod m. -/
theorem modpow64_add (x : Word) {e e2 m : Word} (hsum : e.toNat + e2.toNat < 2 ^ 64) (hm : m ≠ 0) :
    modpow64 x (e + e2) m = modmul64 (modpow64 x e m) (modpow64 x e2 m) m := by
  apply BitVec.eq_of_toNat_eq
  calc (modpow64 x (e + e2) m).toNat
    _ = x.toNat ^ (e.toNat + e2.toNat) % m.toNat := by rw [toNat_modpow64 x _ hm, BitVec.toNat_add_of_lt hsum]
    _ = (x.toNat ^ e.toNat % m.toNat) * (x.toNat ^ e2.toNat % m.toNat) % m.toNat := by rw [pow_add, Nat.mul_mod]
    _ = (modmul64 (modpow64 x e m) (modpow64 x e2 m) m).toNat := by
      rw [toNat_modmul64 _ _ hm, toNat_modpow64 x e hm, toNat_modpow64 x e2 hm]

end Sys2Proof.Machine

open Sys2Proof Sys2Proof.Machine

/-- Settles O33, by induction on the iteration; the invariants need no bound on it, and at 64 the whole of e has been read. -/
theorem squareMultiplyLoopInvariant : Obligations.SquareMultiplyLoopInvariant :=
  fun x e _ hm => ⟨fun i _ => toNat_squareMultiplyLoop x e hm i, toNat_modpow64 x e hm, toNat_modpow64_lt x e hm⟩

/-- Settles O34: each law is the law of the power's remainder over the natural numbers. -/
theorem exponentiationLaws : Obligations.ExponentiationLaws :=
  fun x e _ hm => ⟨toNat_modpow64_lt x e hm, modpow64_exponent_zero x hm, modpow64_exponent_one x hm,
    fun he => zero_modpow64 he hm, modpow64_modulus_one x e, modpow64_umod x e hm, fun _ hsum => modpow64_add x hsum hm⟩

/-- Settles O23: the CMD write by the value of OPM, then the completion, whose value is square-and-multiply's on the latch. -/
theorem modpowCommand : Obligations.ModpowCommand := by
  refine ⟨rfl, decode_encode .modpow, fun s hidle => ⟨exec_of_idle_of_zero hidle rfl, fun hm => ?_⟩⟩
  exact ⟨exec_of_idle_of_nonzero hidle hm, modpow64 s.opa s.opb s.opm, toNat_modpow64 s.opa s.opb hm,
    toNat_modpow64_lt s.opa s.opb hm, step_engine_acceptedState rfl⟩

end

section
/-! PROOFS. The statements of 43_gcd.md: the extended_euclidean_gcd's recursion and bound (R160), its iterations (R162) and its laws
(R163), each from its exactness over the natural numbers, and GCD (R165). -/

namespace Sys2Proof.Machine

theorem gcd64_zero_left (b : Word) : gcd64 0 b = b := gcdLoop_zero_left euclidFuel b

theorem gcd64_comm (a b : Word) : gcd64 a b = gcd64 b a :=
  BitVec.eq_of_toNat_eq (by rw [toNat_gcd64, toNat_gcd64, Nat.gcd_comm])

theorem gcd64_zero_right (a : Word) : gcd64 a 0 = a := (gcd64_comm a 0).trans (gcd64_zero_left a)

theorem gcd64_self (a : Word) : gcd64 a a = a :=
  BitVec.eq_of_toNat_eq ((toNat_gcd64 a a).trans (Nat.gcd_self _))

theorem gcd64_one_left (b : Word) : gcd64 1 b = 1 :=
  BitVec.eq_of_toNat_eq ((toNat_gcd64 1 b).trans (Nat.gcd_one_left _))

/-- The recursion of R160 has no bound on its depth: the loop has ended before its fuel has. -/
theorem gcd64_rec (a b : Word) : gcd64 a b = if a = 0 then b else gcd64 (b % a) a := by
  split
  case isTrue ha => rw [ha, gcd64_zero_left]
  case isFalse => exact BitVec.eq_of_toNat_eq (by rw [toNat_gcd64, toNat_gcd64, BitVec.toNat_umod, ← Nat.gcd_rec])

theorem toNat_gcd64_le_max (a b : Word) : (gcd64 a b).toNat ≤ max a.toNat b.toNat := by
  rw [toNat_gcd64]
  exact Nat.le_of_lt_succ (Script.gcd_lt_of_lt (Nat.lt_succ_of_le (le_max_left _ _)) (Nat.lt_succ_of_le (le_max_right _ _)))

theorem toNat_gcd64_dvd (a b : Word) : (gcd64 a b).toNat ∣ a.toNat ∧ (gcd64 a b).toNat ∣ b.toNat := by
  rw [toNat_gcd64]
  exact ⟨Nat.gcd_dvd_left _ _, Nat.gcd_dvd_right _ _⟩

theorem gcd64_eq_one_iff (a b : Word) : gcd64 a b = 1 ↔ Nat.Coprime a.toNat b.toNat := by
  rw [Nat.Coprime, ← toNat_gcd64]
  exact BitVec.toNat_inj.symm

/-- The fuel makes no difference from 93 on (R162). -/
theorem gcdLoop_eq_gcd64 {n : Nat} (hn : 93 ≤ n) (a b : Word) : gcdLoop n a b = gcd64 a b :=
  BitVec.eq_of_toNat_eq ((toNat_gcdLoop hn a b).trans (toNat_gcd64 a b).symm)

/-- GCD is accepted whatever OPM holds (R165). -/
theorem exec_gcd_of_idle {s : State} (hidle : s.fsm = .idle) : exec .gcd s = .next (acceptedState .gcd s) :=
  (exec_of_idle hidle).trans (congrArg _ (start_of_unchecked rfl))

/-- The completion of an accepted GCD reads OPA and OPB, and not OPM (R165). -/
theorem step_engine_accepted_gcd (s : State) :
    step ((acceptedState .gcd s).nextMove .engine) = .next (completedState (gcd64 s.opa s.opb) (acceptedState .gcd s)) :=
  step_engine_acceptedState rfl

end Sys2Proof.Machine

open Sys2Proof Sys2Proof.Machine

/-- Settles O35: the recursion is Euclid's step on the greatest common divisor, and the loop computes that divisor. -/
theorem gcdUnitIsTheRecursion : Obligations.GcdUnitIsTheRecursion :=
  fun a b => ⟨gcd64_rec a b, toNat_gcd64 a b, toNat_gcd64_le_max a b⟩

/-- Settles O36: each law is the law of the greatest common divisor over the natural numbers. -/
theorem gcdLaws : Obligations.GcdLaws :=
  fun a b => ⟨gcd64_comm a b, gcd64_zero_right a, gcd64_zero_left b, gcd64_zero_left 0, gcd64_self a, gcd64_one_left b,
    fun _ => toNat_gcd64_dvd a b, gcd64_eq_one_iff a b⟩

/-- Settles O37: with any such fuel the loop's value is the greatest common divisor, by Lamé's bound on its iterations. -/
theorem euclidLoopEndsWithin93 : Obligations.EuclidLoopEndsWithin93 :=
  fun a b _ hn => ⟨(gcdLoop_eq_gcd64 hn a b).trans (gcdLoop_eq_gcd64 le_rfl a b).symm, gcdLoop_eq_gcd64 hn a b⟩

/-- Settles O24: the CMD write whatever OPM holds, then the completion, whose value is the extended_euclidean_gcd's on the latched
OPA and OPB; another OPM gives another latch and the same value. -/
theorem gcdCommand : Obligations.GcdCommand := by
  refine ⟨rfl, decode_encode .gcd, fun s hidle => ⟨exec_gcd_of_idle hidle, gcd64 s.opa s.opb, toNat_gcd64 s.opa s.opb,
    step_engine_accepted_gcd s, fun m => ?_⟩⟩
  exact ⟨_, exec_gcd_of_idle (s := { s with opm := m }) hidle, step_engine_accepted_gcd { s with opm := m }⟩

end

section
/-! PROOFS. The statements of 44_modinv.md: the value the modular_inverse_unit finds is the only inverse in its range (R180), its corner
cases (R181, R184, R185) from that, and MODINV on coprime and other pairs (R182, R185). -/

namespace Sys2Proof.Machine

/-! ### The modular_inverse_unit -/

/-- The unit takes a draw exactly where e and phi are not coprime (R182). -/
theorem modinvFound_eq_none_iff {e phi : Word} (hphi : phi ≠ 0) :
    modinvFound e phi = none ↔ Nat.gcd e.toNat phi.toNat ≠ 1 := by
  rw [ne_eq, ← exists_modinvFound_iff hphi, not_exists, Option.eq_none_iff_forall_ne_some]

/-- Any inverse of e in [0, phi) is the value found: e, coprime to phi, cancels from the congruence (R180). -/
theorem eq_toNat_of_modinvFound {e phi d : Word} (hphi : phi ≠ 0) (h : modinvFound e phi = some d) {d' : Nat}
    (hlt : d' < phi.toNat) (hinv : (d' * e.toNat) % phi.toNat = 1 % phi.toNat) : d' = d.toNat := by
  obtain ⟨hdlt, hdinv⟩ := modinvFound_isInverse hphi h
  have hcoprime : Nat.gcd phi.toNat e.toNat = 1 := Nat.gcd_comm _ _ ▸ (exists_modinvFound_iff hphi).mp ⟨d, h⟩
  have hcongr : d' * e.toNat ≡ d.toNat * e.toNat [MOD phi.toNat] := hinv.trans hdinv.symm
  exact (hcongr.cancel_right_of_coprime hcoprime).eq_of_lt_of_lt hlt hdlt

/-- An inverse of e in [0, phi) is what the unit finds: having one makes e coprime to phi, and there is only one. -/
theorem modinvFound_eq_some {e phi d : Word} (hlt : d.toNat < phi.toNat)
    (hinv : (d.toNat * e.toNat) % phi.toNat = 1 % phi.toNat) : modinvFound e phi = some d := by
  have hphi : phi ≠ 0 := by
    rintro rfl
    exact Nat.not_lt_zero _ hlt
  have hcoprime : Nat.gcd e.toNat phi.toNat = 1 :=
    Nat.coprime_of_mul_modEq_one d.toNat (Nat.mul_comm d.toNat _ ▸ hinv)
  obtain ⟨r, hr⟩ := (exists_modinvFound_iff hphi).mpr hcoprime
  rw [hr, BitVec.eq_of_toNat_eq (eq_toNat_of_modinvFound hphi hr hlt hinv)]

/-- The loop starts on e mod phi (R181). -/
theorem modinvFound_umod (e phi : Word) : modinvFound e phi = modinvFound (e % phi) phi := by
  have hstart : e % phi % phi = e % phi := BitVec.eq_of_toNat_eq (by simp only [BitVec.toNat_umod, Nat.mod_mod])
  rw [modinvFound, modinvFound, hstart]

/-- Modulo 1 every word is an inverse of every other, and 0 is the one in range (R184). -/
theorem modinvFound_modulus_one (e : Word) : modinvFound e 1 = some 0 :=
  modinvFound_eq_some (by decide) ((Nat.mod_one _).trans (Nat.mod_one _).symm)

section CornerCases

variable {phi : Word} (h2 : 2 ≤ phi.toNat)
include h2

theorem one_modinvFound : modinvFound 1 phi = some 1 :=
  modinvFound_eq_some h2 rfl

/-- phi - 1 is congruent to -1, so it is its own inverse. -/
theorem pred_modinvFound : modinvFound (phi - 1) phi = some (phi - 1) := by
  have hpred : (phi - 1).toNat = phi.toNat - 1 := BitVec.toNat_sub_of_le (BitVec.le_def.mpr (Nat.le_of_succ_le h2))
  refine modinvFound_eq_some (by omega) ?_
  obtain ⟨k, hk⟩ := Nat.exists_eq_add_of_le' h2
  have hsquare : (k + 1) * (k + 1) = 1 + (k + 2) * k := by ring
  rw [hpred, hk, Nat.add_sub_assoc (by decide), hsquare, Nat.add_mul_mod_self_left]

/-- gcd(0, phi) is phi. -/
theorem zero_modinvFound : modinvFound 0 phi = none := by
  have hphi : phi ≠ 0 := by
    rintro rfl
    exact absurd h2 (by decide)
  have hgcd : Nat.gcd (0 : Word).toNat phi.toNat = phi.toNat := Nat.gcd_zero_left _
  rw [modinvFound_eq_none_iff hphi, hgcd]
  omega

end CornerCases

/-! ### The completion -/

/-- The completion of an accepted MODINV writes the value found for OPA and OPM, and does not read OPB (R185). -/
theorem step_engine_accepted_modinv {s : State} {d : Word} (hd : modinvFound s.opa s.opm = some d) :
    step ((acceptedState .modinv s).nextMove .engine) = .next (completedState d (acceptedState .modinv s)) := by
  refine step_engine_acceptedState ?_
  change completeModinv (acceptedState .modinv s) = _
  simp only [completeModinv, acceptedState, hd]

/-- STATUS after a completion, DROPPED kept: a command in flight has no error to keep (R26, R33). -/
theorem statusCompleted_of_busy {s : State} (hbusy : s.fsm = .busy) (hinv : Inv s) :
    statusCompleted s.status =
      { busy := false, done := true, err := false, dropped := s.status.dropped, errcode := .none } := by
  obtain ⟨⟨hclear, -, -⟩, hfsm, -⟩ := hinv
  obtain ⟨-, herr, hcode⟩ := hclear (hfsm.mpr hbusy)
  rw [statusCompleted, herr, hcode]

/-- The ENGINE's step of a BUSY block completes with no error and some RESULT, whatever the command and its operands are (R33, R182). -/
theorem exists_step_engine_of_busy {s : State} (hbusy : s.fsm = .busy) (hinv : Inv s) :
    ∃ (r : Word) (d : Nat), step (s.nextMove .engine) =
      .next { s with
        result := r
        fsm := .idle
        status := { busy := false, done := true, err := false, dropped := s.status.dropped, errcode := .none }
        draws := d } := by
  obtain ⟨r, n, hcomplete⟩ := complete_eq_finish s
  refine ⟨r, s.draws + n, ?_⟩
  rw [step_nextMove, performMove_engine, engineTurn_of_busy hbusy, hcomplete, ← statusCompleted_of_busy hbusy hinv]
  rfl

end Sys2Proof.Machine

open Sys2Proof Sys2Proof.Machine

/-- Settles O38: the loop's last remainder is the gcd, its coefficient is an inverse where that is 1, and inverses are unique. -/
theorem inverseUnitFindsTheInverse : Obligations.InverseUnitFindsTheInverse := by
  refine fun e phi hphi => ⟨exists_modinvFound_iff hphi, fun d hd => ?_⟩
  obtain ⟨hlt, hinv⟩ := modinvFound_isInverse hphi hd
  exact ⟨hlt, hinv, fun _ => eq_toNat_of_modinvFound hphi hd⟩

/-- Settles O39: each named value is in range and is an inverse, so it is the one found; 0 has none. -/
theorem inverseUnitCornerCases : Obligations.InverseUnitCornerCases :=
  fun e phi _ => ⟨modinvFound_umod e phi, modinvFound_modulus_one e, fun h2 => ⟨one_modinvFound h2, pred_modinvFound h2⟩,
    zero_modinvFound⟩

/-- Settles O26: the completion has no failing case, so the ENGINE's step is the one of any command in flight. -/
theorem modinvOnNonCoprimeOperandsCompletes : Obligations.ModinvOnNonCoprimeOperandsCompletes := by
  refine ⟨fun s hbusy _ _ _ hinv => exists_step_engine_of_busy hbusy hinv, fun phi h2 => ?_, by decide⟩
  rw [Nat.gcd_zero_left]
  omega

/-- Settles O25: the CMD write by the value of OPM, then the completion, whose value is the modular_inverse_unit's on the latched OPA
and OPM where it finds one; another OPB gives another latch and the same value. -/
theorem modinvCommand : Obligations.ModinvCommand := by
  refine ⟨rfl, decode_encode .modinv, fun s hidle => ⟨exec_of_idle_of_zero hidle rfl, exec_of_idle_of_nonzero hidle,
    fun hm hcoprime => ?coprime, fun hm _ => ?notCoprime⟩⟩
  case coprime =>
    obtain ⟨r, hr⟩ := (exists_modinvFound_iff hm).mpr hcoprime
    obtain ⟨hlt, hinv⟩ := modinvFound_isInverse hm hr
    refine ⟨r, hlt, hinv, fun _ => eq_toNat_of_modinvFound hm hr, fun hone => ?_, step_engine_accepted_modinv hr, fun b => ?_⟩
    · rw [hone, modinvFound_modulus_one] at hr
      exact (Option.some.inj hr).symm
    · exact ⟨_, exec_of_idle_of_nonzero (s := { s with opb := b }) hidle hm,
        step_engine_accepted_modinv (s := { s with opb := b }) hr⟩
  case notCoprime => exact exists_step_engine_of_busy (s := acceptedState .modinv s) rfl (inv_accept fun _ => hm)

end

section
/-! PROOFS. The statements of 60_exceptions.md: what a CMD write reports (R201 to R203), and how long DROPPED, ERR and ERRCODE last
(R204, R207, R208). -/

namespace Sys2Proof.Machine

/-! ### Reports of a CMD write -/

/-- A write at CMD's offset is the CMD write (R20). -/
theorem step_hostWrites_cmd (w : Word) (s : State) : step (s.hostWrites 0x18 w) = cmdWrite w s :=
  step_hostWrites (by decide) (by decide)

/-- A CMD write that leaves ERR set has raised one of the two errors (R201): while IDLE the only other outcome is an acceptance,
which clears ERR. -/
theorem eq_raiseError_of_cmdWrite {w : Word} {s t : State} (hidle : s.fsm = .idle) (h : cmdWrite w s = .next t)
    (herr : t.status.err = true) : ∃ c, c ≠ .none ∧ t = raiseError c s := by
  obtain ⟨hbusy, -⟩ | ⟨-, -, hc⟩ | ⟨-, i, -, hc⟩ := cmdWrite_cases w s
  case inl => exact absurd hbusy (not_busy_of_idle hidle)
  case inr.inl =>
    cases hc.symm.trans h
    exact ⟨.illegalCmd, by decide, rfl⟩
  case inr.inr =>
    obtain ⟨hbusy, -⟩ | ⟨-, -, -, rfl⟩ | ⟨-, -, rfl⟩ := exec_cases (hc.symm.trans h)
    · exact absurd hbusy (not_busy_of_idle hidle)
    · exact ⟨.modZero, by decide, rfl⟩
    · cases herr

/-! ### What a step does to STATUS -/

/-- The ENGINE rewrites STATUS only to complete (R33). -/
theorem engineTurn_status_cases (s : State) :
    (engineTurn s).status = s.status ∨ (engineTurn s).status = statusCompleted s.status := by
  cases hf : s.fsm with
  | idle => exact .inl (by rw [engineTurn_of_idle hf])
  | busy =>
    obtain ⟨r, n, hcomplete⟩ := complete_eq_finish s
    exact .inr (by rw [engineTurn_of_busy hf, hcomplete, finish_status, takeDraws_status])

/-- Only a processed CMD write and RESET rewrite STATUS whole (R32, R230): every other step keeps it, completes (R33) or marks a
dropped command (R204). -/
theorem step_status_cases {s t : State} (h : step s = .next t) :
    (t.status = s.status ∨ t.status = statusCompleted s.status ∨ t.status = statusDropped s.status) ∨
    (s.fsm = .idle ∧ ∃ w, WritesNext s 0x18 w) ∨ ResetsNext s := by
  obtain ⟨-, rfl⟩ | ⟨hreset, -⟩ | ⟨-, -, -, -, rfl⟩ | ⟨off, v, -, -, hw, hwrite⟩ := step_cases h
  case inl => exact .inl ((engineTurn_status_cases s.taken).imp_right .inl)
  case inr.inl => exact .inr (.inr hreset)
  case inr.inr.inl => exact .inl (.inl rfl)
  case inr.inr.inr =>
    obtain ⟨-, rfl⟩ | ⟨-, rfl⟩ | ⟨-, rfl⟩ | ⟨rfl, hc⟩ | ⟨-, rfl⟩ := writeReg_cases hwrite
    case inr.inr.inr.inl =>
      cases hf : s.fsm with
      | idle => exact .inr (.inl ⟨rfl, v, hw⟩)
      | busy =>
        cases (cmdWrite_of_busy (s := s.taken) hf).symm.trans hc
        exact .inl (.inr (.inr rfl))
    all_goals exact .inl (.inl rfl)

end Sys2Proof.Machine

open Sys2Proof Sys2Proof.Machine

/-- Settles O16: a CMD write while BUSY is dropped, a completion keeps DROPPED, and any step that neither processes a CMD write nor
resets leaves it as it was or sets it. -/
theorem droppedIsStickyUntilProcessed : Obligations.DroppedIsStickyUntilProcessed := by
  refine ⟨fun s w hbusy => (step_hostWrites_cmd w s).trans (cmdWrite_of_busy hbusy), fun s t hturn hstep => ?engine,
    fun s t hstep hset hclear => ?cleared⟩
  case engine =>
    rw [step_of_engineNext hturn] at hstep
    cases hstep
    obtain hkept | hcompleted := engineTurn_status_cases s.taken
    · rw [hkept, State.taken_status]
    · rw [hcompleted, statusCompleted_dropped, State.taken_status]
  case cleared =>
    refine (step_status_cases hstep).resolve_left ?_
    rw [← Bool.not_eq_true] at hclear
    rintro (hkept | hcompleted | hdropped)
    · exact hclear (by rw [hkept, hset])
    · exact hclear (by rw [hcompleted, statusCompleted_dropped, hset])
    · exact hclear (by rw [hdropped, statusDropped_dropped])

/-- Settles O17: these words are those that do not decode, and the CMD write of one raises the error before OPM is looked at. -/
theorem illegalWordReportsIllegalCmd : Obligations.IllegalWordReportsIllegalCmd := by
  intro s w hidle hreserved
  obtain ⟨r, hd⟩ := (illegalWordsAreTheReservedOnes w).1.mpr hreserved
  exact ⟨statusError .illegalCmd, (step_hostWrites_cmd w s).trans (cmdWrite_of_illegal hidle hd), rfl, rfl⟩

/-- Settles O18: the modulus check fails exactly where it is made and OPM is 0; elsewhere the command is accepted. -/
theorem zeroModulusReportsModZero : Obligations.ZeroModulusReportsModZero := by
  intro s i hidle
  exact ⟨fun hi hm => ⟨statusError .modZero, exec_of_idle_of_zero hidle (checksModulus_eq_true_iff.mpr hi) hm, rfl, rfl⟩,
    fun _ hm => ⟨acceptedState i s, exec_of_idle_of_nonzero hidle hm, rfl⟩,
    ⟨acceptedState .gcd s, exec_gcd_of_idle hidle, rfl⟩⟩

/-- Settles O19: the state left is `raiseError` of a code, which is IDLE, so no ENGINE turn does anything. -/
theorem errorChangesOnlyStatus : Obligations.ErrorChangesOnlyStatus := by
  intro s t w hidle hstep herr
  rw [step_hostWrites_cmd] at hstep
  obtain ⟨c, hc, rfl⟩ := eq_raiseError_of_cmdWrite hidle hstep herr
  have hengine : engineTurn (raiseError c s) = raiseError c s := engineTurn_of_idle hidle
  exact ⟨rfl, rfl, rfl, rfl, hc, congrArg _ hengine, step_hostReads (by decide) (by decide)⟩

/-- Settles O43: a completion and a drop write neither ERR nor ERRCODE. -/
theorem outcomeStaysUntilProcessedCmdWrite : Obligations.OutcomeStaysUntilProcessedCmdWrite := by
  intro s t hstep hne
  refine (step_status_cases hstep).resolve_left ?_
  rintro (hkept | hcompleted | hdropped)
  · exact hne (by rw [hkept])
  · exact hne (by rw [hcompleted, statusCompleted_err, statusCompleted_errcode])
  · exact hne (by rw [hdropped, statusDropped_err, statusDropped_errcode])

end

section
/-! PROOFS. The statements of 70_reset_and_hazards.md: RESET abandons the command in flight (R230, R231), and without it a started
command completes (R245). -/

namespace Sys2Proof.Machine

/-! ### Runs -/

/-- A run of one step and more is that step, and the rest of the run from the state it leaves. -/
theorem exists_step_of_runSteps_succ {s t : State} {n : Nat} (h : runSteps (n + 1) s = .next t) :
    ∃ u, step s = .next u ∧ runSteps n u = .next t := by
  rw [runSteps] at h
  split at h
  case h_1 u hstep => exact ⟨u, hstep, h⟩
  case h_2 | h_3 => cases h

/-- A run goes on with the step of the state it has come to. -/
theorem runSteps_succ_of_runSteps {s t : State} {n : Nat} (h : runSteps n s = .next t) : runSteps (n + 1) s = step t := by
  induction n generalizing s with
  | zero =>
    cases h
    cases hstep : step t <;> simp only [runSteps, hstep]
  | succ n ih =>
    obtain ⟨u, hstep, hrest⟩ := exists_step_of_runSteps_succ h
    rw [runSteps_succ hstep, ih hrest]

/-- What every step keeps, every run keeps (R26, R31, R33). -/
theorem inv_of_runSteps {s t : State} {n : Nat} (hinv : Inv s) (h : runSteps n s = .next t) : Inv t := by
  induction n generalizing s with
  | zero =>
    cases h
    exact hinv
  | succ n ih =>
    obtain ⟨u, hstep, hrest⟩ := exists_step_of_runSteps_succ h
    exact ih (everyStepKeepsTheStatusInvariants s u hinv hstep) hrest

/-! ### The first move that is not the host's -/

/-- The host accesses a list of moves begins with, and what comes after them: no move, an ENGINE turn or RESET (R12). -/
theorem exists_eq_accesses_append (moves : List Move) :
    ∃ (accesses : List Access) (rest : List Move), moves = accesses.map Move.host ++ rest ∧
      (rest = [] ∨ rest.head? = some .engine ∨ rest.head? = some .reset) := by
  induction moves with
  | nil => exact ⟨[], [], rfl, .inl rfl⟩
  | cons m moves ih =>
    cases m with
    | engine => exact ⟨[], _, rfl, .inr (.inl rfl)⟩
    | reset => exact ⟨[], _, rfl, .inr (.inr rfl)⟩
    | host a =>
      obtain ⟨accesses, rest, rfl, hrest⟩ := ih
      exact ⟨a :: accesses, rest, rfl, hrest⟩

/-- A BUSY block whose coming accesses are supported comes, with its command kept, to the ENGINE's step or to RESET (R225, R245). -/
theorem exists_runSteps_to_engine_or_reset {s : State} (hbusy : s.fsm = .busy) (hsafe : SafeAgenda s) :
    ∃ n t, n ≤ s.agenda.length ∧ runSteps n s = .next t ∧ CommandKept s t ∧
      (EngineNext t ∨ (ResetsNext t ∧ Move.reset ∈ s.agenda)) := by
  obtain ⟨accesses, rest, hagenda, hrest⟩ := exists_eq_accesses_append s.agenda
  have hsupported (a : Access) (ha : a ∈ accesses) : Supported s a := hsafe a (by simp [hagenda, ha])
  obtain ⟨t, hrun, hkept, rfl⟩ := exists_runSteps_commandKept accesses rest hbusy hsupported hagenda
  refine ⟨accesses.length, t, by simp [hagenda], hrun, hkept, ?_⟩
  obtain hnone | hengine | hreset := hrest
  · exact .inl (.inl hnone)
  · exact .inl (.inr hengine)
  · exact .inr ⟨hreset, by simp [hagenda, List.mem_of_mem_head? hreset]⟩

/-- No error is reported while a command is in flight (R26, R31). -/
theorem err_eq_false_of_busy {s : State} (hinv : Inv s) (hbusy : s.fsm = .busy) : s.status.err = false := by
  obtain ⟨⟨hstatus, -, -⟩, hfsm, -⟩ := hinv
  exact (hstatus (hfsm.mpr hbusy)).2.1

end Sys2Proof.Machine

open Sys2Proof Sys2Proof.Machine

/-- Settles O56: the host's accesses keep the command in flight, and the step after them is the ENGINE's completion, unless it is
RESET, which leaves IDLE too. -/
theorem startedCommandEventuallyCompletes : Obligations.StartedCommandEventuallyCompletes := by
  intro s hbusy hsafe
  obtain ⟨n, t, hn, hrun, hkept, hturn | ⟨hreset, hmem⟩⟩ := exists_runSteps_to_engine_or_reset hbusy hsafe
  case inl =>
    obtain ⟨u, hstep, hidle, hdone, hresult⟩ := exists_step_completes hkept.fsm hturn
    obtain ⟨-, -, -, hlat, herr, -⟩ := completionFrame t u hturn hstep
    refine ⟨n + 1, u, Nat.succ_le_succ hn, (runSteps_succ_of_runSteps hrun).trans hstep, hidle,
      fun _ => ⟨hdone, hlat.trans hkept.lat, fun hinv => ?_⟩⟩
    have hinv' : Inv t := inv_of_runSteps hinv hrun
    have hnoError : t.status.err = false := err_eq_false_of_busy hinv' hkept.fsm
    obtain ⟨-, -, hlatch⟩ := hinv'
    exact ⟨herr.trans hnoError, hkept.lat ▸ hresult hlatch⟩
  case inr =>
    exact ⟨n + 1, resetBlock t.taken, Nat.succ_le_succ hn, (runSteps_succ_of_runSteps hrun).trans (step_of_head hreset), rfl,
      fun hnone => absurd hmem hnone⟩

/-- Settles O7: the state left is `resetBlock s`, which is IDLE, so the ENGINE's turn passes. -/
theorem resetMoveAbandonsTheCommand : Obligations.ResetMoveAbandonsTheCommand := by
  intro s
  have hengine : engineTurn (resetBlock s) = resetBlock s := engineTurn_of_idle (resetBlock_fsm s)
  exact ⟨resetBlock s, step_nextMove s .reset, rfl, rfl, rfl, rfl, rfl, rfl, rfl, rfl, rfl,
    (step_nextMove _ .engine).trans (congrArg _ hengine)⟩

end

section
/-! PROOFS. The statement of the access outside the window (spec/20_memory.md section 1, R56): it takes no offset, so it stops. -/

namespace Sys2Proof.Machine

/-- An access of the supported form outside the window faults, whatever it would have done at its offset (log 9). -/
theorem atOffset_of_outsideWindow {addr : Nat} {s : State} {act : Nat → State → Host.Outcome State Fault Refusal}
    (hmod : addr % 8 = 0) (hout : addr < 64 * s.windowPage ∨ 64 * s.windowPage + 64 ≤ addr) :
    atOffset addr 8 act s = .fault (.outsideWindow addr) := by
  have hform : supportedForm addr 8 = true := supportedForm_iff.mpr ⟨rfl, hmod⟩
  have hwindow : ¬ inWindow s addr = true := by
    rw [inWindow_iff]
    omega
  rw [atOffset, if_pos hform, if_neg hwindow]

/-- The host's move of an access of the supported form outside the window faults, be it a read or a write (log 9). -/
theorem step_host_of_outsideWindow {a : Access} {s : State} (hwidth : accessWidth a = 8) (hmod : accessAddr a % 8 = 0)
    (hout : accessAddr a < 64 * s.windowPage ∨ 64 * s.windowPage + 64 ≤ accessAddr a) :
    step (s.nextMove (.host a)) = .fault (.outsideWindow (accessAddr a)) := by
  obtain ⟨act, hact⟩ := exists_hostAccess_eq_atOffset a s
  rw [step_nextMove, performMove_host, hact, hwidth, atOffset_of_outsideWindow hmod hout]

end Sys2Proof.Machine

open Sys2Proof Sys2Proof.Machine

/-- Settles O12: `step_host_of_outsideWindow` of the read and of the write. -/
theorem accessOutsideTheWindowFaults : Obligations.AccessOutsideTheWindowFaults := by
  intro s addr v hmod hout
  exact ⟨step_host_of_outsideWindow (a := .read addr 8) rfl hmod hout,
    step_host_of_outsideWindow (a := .write addr 8 v) rfl hmod hout⟩

end
